-- ==== Sys2Proof/Word.lean ====
section
/-! DEFINITION. The word types of CORE (00_scope.md R6, R8): bytes, 16-bit words, register indices.
Every value is unsigned. -/

namespace Sys2Proof

/-- A byte of memory or the contents of a data register (R6: `REG_BITS` = 8). -/
abbrev Byte := BitVec 8

/-- A 16-bit quantity: instruction word, program counter, address register, return address (R6). -/
abbrev Word := BitVec 16

/-- The index of a data register, 0 to 15 (10_state.md R14, R15). -/
abbrev Reg := Fin 16

/-- Register 15, the flag register (R6: `FLAG_REG`; 10_state.md R16). -/
abbrev flagReg : Reg := 15

end Sys2Proof
end

