-- ==== Sys2Proof/Config.lean ====
section
/-! DEFINITION. What is fixed for the machine (the three parameters of 00_scope.md R6) and what is free:
the answers and moves of the collaborators, which no rule of the spec constrains
(45_collaborator_ops.md R105, 50_interfaces.md R126). -/

namespace Sys2Proof

/-- The three parameters of 00_scope.md R6 (not state by 10_state.md R13; the model carries them in State, log 4). -/
structure Params where
  memorySize : Nat
  loadAddress : Nat
  stackDepth : Nat
  deriving DecidableEq, Repr

/-- The default values of R6: 4096 bytes, load address 0x200, 16 return addresses. -/
def Params.default : Params := ⟨4096, 0x200, 16⟩

/-- The inputs CORE takes in one step (50_interfaces.md R115): the random source's byte, the key event and the
display sink's reply. -/
structure StepInputs where
  randByte : Byte
  keyEvent : Option (BitVec 4)
  dispHit : Bool
  deriving DecidableEq, Repr, Inhabited

/-- One move of the environment between two steps: the values it leaves in `keys`, `DT` and `ST` (R125), and the
inputs it will present in the next step (R115). -/
structure EnvMove where
  keys : BitVec 16
  dt : Byte
  st : Byte
  inputs : StepInputs
  deriving DecidableEq, Repr, Inhabited

/-- DESIGN CHOICE, safe (log 1). The environment's `k`-th move when nothing is scheduled: an uninterpreted
constant, so a claim about it holds whatever the collaborators do (R126; 93_implementation_defined.md U1 to U4). -/
opaque Config.envMove : Nat → EnvMove

end Sys2Proof
end

