-- ==== Sys2Proof/Syntax.lean ====
section
/-! DEFINITION. The 27 operations (00_scope.md R3), one constructor per row of opcode_table.json, in the order of
30_encoding.md R56. The types of the operands are exactly the ranges of the fields (R52), every value of which
is legal (R64). -/

namespace Sys2Proof

/-- An instruction. `x`, `y` are register indices, `imm` an 8-bit and `addr` a 12-bit immediate, `n` a row count. -/
inductive Instr where
  /-- clear-display (R106) -/
  | clearDisplay
  /-- return (R80) -/
  | ret
  /-- jump (R81) -/
  | jump (addr : BitVec 12)
  /-- call (R82) -/
  | call (addr : BitVec 12)
  /-- skip-eq-imm (R85) -/
  | skipEqImm (x : Reg) (imm : Byte)
  /-- skip-ne-imm (R86) -/
  | skipNeImm (x : Reg) (imm : Byte)
  /-- skip-eq-reg (R87) -/
  | skipEqReg (x y : Reg)
  /-- skip-ne-reg (R88) -/
  | skipNeReg (x y : Reg)
  /-- load-imm (R90) -/
  | loadImm (x : Reg) (imm : Byte)
  /-- add-imm (R91) -/
  | addImm (x : Reg) (imm : Byte)
  /-- move (R92) -/
  | move (x y : Reg)
  /-- or (R95) -/
  | orReg (x y : Reg)
  /-- and (R96) -/
  | andReg (x y : Reg)
  /-- xor (R97) -/
  | xorReg (x y : Reg)
  /-- add-reg (R98) -/
  | addReg (x y : Reg)
  /-- sub-reg (R99) -/
  | subReg (x y : Reg)
  /-- shift-right (R100). `y` is the unused field of the word (R59), kept so that no bit is lost (log 8). -/
  | shiftRight (x y : Reg)
  /-- sub-reg-rev (R101) -/
  | subRegRev (x y : Reg)
  /-- shift-left (R102). `y` is the unused field of the word (R59), kept so that no bit is lost (log 8). -/
  | shiftLeft (x y : Reg)
  /-- load-addr (R93) -/
  | loadAddr (addr : BitVec 12)
  /-- jump-offset (R83) -/
  | jumpOffset (addr : BitVec 12)
  /-- rand-and (R107) -/
  | randAnd (x : Reg) (imm : Byte)
  /-- draw (R108) -/
  | draw (x y : Reg) (n : Fin 16)
  /-- skip-key-pressed (R109) -/
  | skipKeyPressed (x : Reg)
  /-- skip-key-not-pressed (R110) -/
  | skipKeyNotPressed (x : Reg)
  /-- load-delay (R111) -/
  | loadDelay (x : Reg)
  /-- wait-key (R112) -/
  | waitKey (x : Reg)
  deriving DecidableEq, Repr

end Sys2Proof
end

