-- ==== Sys2Proof/WellFormed.lean ====
section
/-! DEFINITION. Well-formedness. An `Instr` is well formed by its type (30_encoding.md R64: no operand value makes a
valid pattern invalid), so what can be ill formed is an instruction WORD (R56, R61) and a choice of the
PARAMETERS (00_scope.md R6). The opcode map stands here as the table of R56, independently of the decoder, which
branches group by group (R57 to R60). -/

namespace Sys2Proof

/-- A row of the opcode map: a word `w` selects it when `w AND mask = bits` (R56, column `match`). -/
structure OpcodeRow where
  mnemonic : String
  bits : Word
  mask : Word
  deriving DecidableEq, Repr

/-- Does the word select the row? (R56) -/
def OpcodeRow.selects (r : OpcodeRow) (w : Word) : Bool := w &&& r.mask == r.bits

/-- R56, the rows of groups 0 to 7 and 9 in the order of the table. -/
def opcodeRowsControl : List OpcodeRow :=
  [⟨"clear-display", 0x00E0, 0xFFFF⟩, ⟨"return", 0x00EE, 0xFFFF⟩, ⟨"jump", 0x1000, 0xF000⟩, ⟨"call", 0x2000, 0xF000⟩,
   ⟨"skip-eq-imm", 0x3000, 0xF000⟩, ⟨"skip-ne-imm", 0x4000, 0xF000⟩, ⟨"skip-eq-reg", 0x5000, 0xF00F⟩,
   ⟨"skip-ne-reg", 0x9000, 0xF00F⟩, ⟨"load-imm", 0x6000, 0xF000⟩, ⟨"add-imm", 0x7000, 0xF000⟩]

/-- R56, the rows of group 8. -/
def opcodeRowsAlu : List OpcodeRow :=
  [⟨"move", 0x8000, 0xF00F⟩, ⟨"or", 0x8001, 0xF00F⟩, ⟨"and", 0x8002, 0xF00F⟩, ⟨"xor", 0x8003, 0xF00F⟩,
   ⟨"add-reg", 0x8004, 0xF00F⟩, ⟨"sub-reg", 0x8005, 0xF00F⟩, ⟨"shift-right", 0x8006, 0xF00F⟩,
   ⟨"sub-reg-rev", 0x8007, 0xF00F⟩, ⟨"shift-left", 0x800E, 0xF00F⟩]

/-- R56, the rows of groups A to F. -/
def opcodeRowsHigh : List OpcodeRow :=
  [⟨"load-addr", 0xA000, 0xF000⟩, ⟨"jump-offset", 0xB000, 0xF000⟩, ⟨"rand-and", 0xC000, 0xF000⟩,
   ⟨"draw", 0xD000, 0xF000⟩, ⟨"skip-key-pressed", 0xE09E, 0xF0FF⟩, ⟨"skip-key-not-pressed", 0xE0A1, 0xF0FF⟩,
   ⟨"load-delay", 0xF007, 0xF0FF⟩, ⟨"wait-key", 0xF00A, 0xF0FF⟩]

/-- The opcode map of R56, all 27 rows. -/
def opcodeTable : List OpcodeRow := opcodeRowsControl ++ opcodeRowsAlu ++ opcodeRowsHigh

/-- A word is well formed when it selects a row of the map (R61: every other word is an invalid opcode). -/
def wordWellFormed (w : Word) : Bool := opcodeTable.any (fun r => r.selects w)

/-- The invalid words as R61 lists them, group by group, in arithmetic on the number of the word. -/
def wordListedInvalid (w : Nat) : Bool :=
  (w / 4096 == 0x0 && w != 0x00E0 && w != 0x00EE)
    || (w / 4096 == 0x5 && w % 16 != 0)
    || (w / 4096 == 0x8 && ((8 ≤ w % 16 && w % 16 ≤ 13) || w % 16 == 15))
    || (w / 4096 == 0x9 && w % 16 != 0)
    || (w / 4096 == 0xE && w % 256 != 0x9E && w % 256 != 0xA1)
    || (w / 4096 == 0xF && w % 256 != 0x07 && w % 256 != 0x0A)

/-- The constraints R6 puts on the parameters. -/
def Params.wellFormed (p : Params) : Bool :=
  decide (2 ≤ p.memorySize) && decide (p.memorySize ≤ 4096) && decide (p.loadAddress + 1 < p.memorySize)
    && decide (1 ≤ p.stackDepth)

/-- The mnemonic of opcode_table.json that an instruction stands for. -/
def Instr.mnemonic : Instr → String
  | .clearDisplay => "clear-display"
  | .ret => "return"
  | .jump _ => "jump"
  | .call _ => "call"
  | .skipEqImm _ _ => "skip-eq-imm"
  | .skipNeImm _ _ => "skip-ne-imm"
  | .skipEqReg _ _ => "skip-eq-reg"
  | .skipNeReg _ _ => "skip-ne-reg"
  | .loadImm _ _ => "load-imm"
  | .addImm _ _ => "add-imm"
  | .move _ _ => "move"
  | .orReg _ _ => "or"
  | .andReg _ _ => "and"
  | .xorReg _ _ => "xor"
  | .addReg _ _ => "add-reg"
  | .subReg _ _ => "sub-reg"
  | .shiftRight _ _ => "shift-right"
  | .subRegRev _ _ => "sub-reg-rev"
  | .shiftLeft _ _ => "shift-left"
  | .loadAddr _ => "load-addr"
  | .jumpOffset _ => "jump-offset"
  | .randAnd _ _ => "rand-and"
  | .draw _ _ _ => "draw"
  | .skipKeyPressed _ => "skip-key-pressed"
  | .skipKeyNotPressed _ => "skip-key-not-pressed"
  | .loadDelay _ => "load-delay"
  | .waitKey _ => "wait-key"

end Sys2Proof
end

