-- ==== Sys2Proof/Decode.lean ====
section
/-! DEFINITION. `instruction_decoder` and the selection of `dispatch_mux` (30_encoding.md R50 to R61), and after them
the encoder. Decoding depends on the word alone and has no effect (R51). -/

namespace Sys2Proof

/-! ## Fields (R52) -/

/-- `group = w[15:12]` (R52). -/
def fieldGroup (w : Word) : BitVec 4 := w.extractLsb' 12 4

/-- `x = w[11:8]`, a register index (R52). -/
def fieldX (w : Word) : Reg := (w.extractLsb' 8 4).toFin

/-- `y = w[7:4]`, a register index (R52). -/
def fieldY (w : Word) : Reg := (w.extractLsb' 4 4).toFin

/-- `n = w[3:0]` (R52), the secondary selector. -/
def fieldN (w : Word) : BitVec 4 := w.extractLsb' 0 4

/-- `imm = w[7:0]` (R52). -/
def fieldImm (w : Word) : Byte := w.extractLsb' 0 8

/-- `addr = w[11:0]` (R52). -/
def fieldAddr (w : Word) : BitVec 12 := w.extractLsb' 0 12

/-! ## Decoding -/

/-- What the decoder answers for a word: the instruction it selects, or the rejection `InvalidOpcode`, which
carries the word (60_exceptions.md R134). -/
inductive Decoded where
  | instr (i : Instr)
  | invalidOpcode (w : Word)
  deriving DecidableEq, Repr

/-- Group 0: the whole word is compared (R57). -/
def decodeGroup0 (w : Word) : Decoded :=
  if w = 0x00E0 then .instr .clearDisplay
  else if w = 0x00EE then .instr .ret
  else .invalidOpcode w

/-- Group 5: `n` must be 0 (R58). -/
def decodeGroup5 (w : Word) : Decoded :=
  if fieldN w = 0 then .instr (.skipEqReg (fieldX w) (fieldY w)) else .invalidOpcode w

/-- Group 8: `n` selects (R59). -/
def decodeGroup8 (w : Word) : Decoded :=
  match (fieldN w).toNat with
  | 0x0 => .instr (.move (fieldX w) (fieldY w))
  | 0x1 => .instr (.orReg (fieldX w) (fieldY w))
  | 0x2 => .instr (.andReg (fieldX w) (fieldY w))
  | 0x3 => .instr (.xorReg (fieldX w) (fieldY w))
  | 0x4 => .instr (.addReg (fieldX w) (fieldY w))
  | 0x5 => .instr (.subReg (fieldX w) (fieldY w))
  | 0x6 => .instr (.shiftRight (fieldX w) (fieldY w))
  | 0x7 => .instr (.subRegRev (fieldX w) (fieldY w))
  | 0xE => .instr (.shiftLeft (fieldX w) (fieldY w))
  | _ => .invalidOpcode w

/-- Group 9: `n` must be 0 (R58). -/
def decodeGroup9 (w : Word) : Decoded :=
  if fieldN w = 0 then .instr (.skipNeReg (fieldX w) (fieldY w)) else .invalidOpcode w

/-- Group E: the low byte selects (R60). -/
def decodeGroupE (w : Word) : Decoded :=
  if fieldImm w = 0x9E then .instr (.skipKeyPressed (fieldX w))
  else if fieldImm w = 0xA1 then .instr (.skipKeyNotPressed (fieldX w))
  else .invalidOpcode w

/-- Group F: the low byte selects (R60). -/
def decodeGroupF (w : Word) : Decoded :=
  if fieldImm w = 0x07 then .instr (.loadDelay (fieldX w))
  else if fieldImm w = 0x0A then .instr (.waitKey (fieldX w))
  else .invalidOpcode w

/-- Decode a word: group first, then the more specific fields (R55, R57 to R60). The last arm is group F, the only number
of a 4-bit field that is left. -/
def decode (w : Word) : Decoded :=
  match (fieldGroup w).toNat with
  | 0x0 => decodeGroup0 w
  | 0x1 => .instr (.jump (fieldAddr w))
  | 0x2 => .instr (.call (fieldAddr w))
  | 0x3 => .instr (.skipEqImm (fieldX w) (fieldImm w))
  | 0x4 => .instr (.skipNeImm (fieldX w) (fieldImm w))
  | 0x5 => decodeGroup5 w
  | 0x6 => .instr (.loadImm (fieldX w) (fieldImm w))
  | 0x7 => .instr (.addImm (fieldX w) (fieldImm w))
  | 0x8 => decodeGroup8 w
  | 0x9 => decodeGroup9 w
  | 0xA => .instr (.loadAddr (fieldAddr w))
  | 0xB => .instr (.jumpOffset (fieldAddr w))
  | 0xC => .instr (.randAnd (fieldX w) (fieldImm w))
  | 0xD => .instr (.draw (fieldX w) (fieldY w) (fieldN w).toFin)
  | 0xE => decodeGroupE w
  | _ => decodeGroupF w

/-- The 16-bit word of two bytes, the more significant first (20_memory.md R38). -/
def wordOfBytes (hi lo : Byte) : Word := hi ++ lo

/-- The more significant byte of a word, stored at the lower address (R38). -/
def highByte (w : Word) : Byte := w.extractLsb' 8 8

/-- The less significant byte of a word, stored at the higher address (R38). -/
def lowByte (w : Word) : Byte := w.extractLsb' 0 8

/-- What the decoder answers for a string of bytes: an instruction and the bytes after it, or a rejection by name. -/
inductive DecodedBytes where
  | instr (i : Instr) (rest : List Byte)
  | invalidOpcode (w : Word)
  /-- Fewer than the two bytes every instruction has (R50). -/
  | truncated
  deriving DecidableEq, Repr

/-- Decode the instruction at the head of any string of bytes (R50: two bytes, big-endian). -/
def decodeBytes : List Byte → DecodedBytes
  | hi :: lo :: rest =>
    match decode (wordOfBytes hi lo) with
    | .instr i => .instr i rest
    | .invalidOpcode w => .invalidOpcode w
  | _ => .truncated

/-! ## Encoding -/

/-- Format A: `gggg aaaa aaaa aaaa` (R54). -/
def packA (g : BitVec 4) (addr : BitVec 12) : Word := g ++ addr

/-- Format XI: `gggg xxxx kkkk kkkk` (R54); format XF is the same layout with a fixed low byte. -/
def packXI (g : BitVec 4) (x : Reg) (imm : Byte) : Word := g ++ (BitVec.ofFin x : BitVec 4) ++ imm

/-- Formats XY and XYN: `gggg xxxx yyyy nnnn` (R54). -/
def packXYN (g : BitVec 4) (x y : Reg) (n : BitVec 4) : Word :=
  g ++ (BitVec.ofFin x : BitVec 4) ++ (BitVec.ofFin y : BitVec 4) ++ n

/-- The word of an instruction (R54, R56). -/
def encode : Instr → Word
  | .clearDisplay => 0x00E0
  | .ret => 0x00EE
  | .jump addr => packA 0x1 addr
  | .call addr => packA 0x2 addr
  | .skipEqImm x imm => packXI 0x3 x imm
  | .skipNeImm x imm => packXI 0x4 x imm
  | .skipEqReg x y => packXYN 0x5 x y 0x0
  | .skipNeReg x y => packXYN 0x9 x y 0x0
  | .loadImm x imm => packXI 0x6 x imm
  | .addImm x imm => packXI 0x7 x imm
  | .move x y => packXYN 0x8 x y 0x0
  | .orReg x y => packXYN 0x8 x y 0x1
  | .andReg x y => packXYN 0x8 x y 0x2
  | .xorReg x y => packXYN 0x8 x y 0x3
  | .addReg x y => packXYN 0x8 x y 0x4
  | .subReg x y => packXYN 0x8 x y 0x5
  | .shiftRight x y => packXYN 0x8 x y 0x6
  | .subRegRev x y => packXYN 0x8 x y 0x7
  | .shiftLeft x y => packXYN 0x8 x y 0xE
  | .loadAddr addr => packA 0xA addr
  | .jumpOffset addr => packA 0xB addr
  | .randAnd x imm => packXI 0xC x imm
  | .draw x y n => packXYN 0xD x y (BitVec.ofFin n)
  | .skipKeyPressed x => packXI 0xE x 0x9E
  | .skipKeyNotPressed x => packXI 0xE x 0xA1
  | .loadDelay x => packXI 0xF x 0x07
  | .waitKey x => packXI 0xF x 0x0A

/-- The two bytes of an instruction as memory holds them (R38, R50). -/
def encodeBytes (i : Instr) : List Byte := [highByte (encode i), lowByte (encode i)]

/-- The instruction the decoder reads from an instruction whose bits, numbered as opcode_table.json numbers
them, are the low `nbits` bits of `w`, every higher bit being 0. -/
def decodeTableWord (nbits w : Nat) : Option Instr :=
  match decodeBytes [highByte (BitVec.ofNat 16 (w % 2 ^ nbits)), lowByte (BitVec.ofNat 16 (w % 2 ^ nbits))] with
  | .instr i _ => some i
  | .invalidOpcode _ => none
  | .truncated => none

end Sys2Proof
end

