-- ==== Sys2Proof/Machine/State.lean ====
section
/-! DEFINITION. The whole architectural state of CORE (10_state.md R13), beside it the model's own fields that carry
the parameters, the inputs and the outputs of a step, the reasons a step can stop, and the state at reset. -/

namespace Sys2Proof.Machine

/-- The diagnostic value of an `AddressOutOfBounds` (60_exceptions.md R133, column `info`). -/
inductive FaultInfo where
  /-- An address outside memory: `pc` for fetch, `I + n - 1` for draw, the address given to a memory primitive. -/
  | addr (a : Nat)
  /-- The return stack: a call when it is full, a return when it is empty. -/
  | stack
  deriving DecidableEq, Repr

/-- The two failure kinds of CORE, and only these (60_exceptions.md R132). A failure changes no state (R135) and ends
the run as far as the model goes (R137). -/
inductive Fault where
  /-- Raised by fetch, draw, call, return and the memory primitives (R133). Safe: the spec's own outcome; for the stack
  it is the spec's decision D8, which errs toward stopping. -/
  | addressOutOfBounds (info : FaultInfo)
  /-- Raised by dispatch for a word that matches no pattern; carries the word (R134). Safe: the spec's own outcome. -/
  | invalidOpcode (w : Word)
  deriving DecidableEq, Repr

/-- Reasons the model itself gives no meaning. -/
inductive Refusal where
  /-- An instruction the model has no meaning for. Raised by no arm: all 27 operations have their meaning. Safe. -/
  | notModelled (mnemonic : String)
  deriving DecidableEq, Repr

/-- A command on the display port (50_interfaces.md R118): at most one per step. -/
inductive DispCmd where
  | none
  | clear
  | draw (cx cy : Byte) (rows : List Byte)
  deriving DecidableEq, Repr

/-- What a completed step yields beside the new state (50_interfaces.md R115): its display command and the
`stalled` mark of a wait-key with no key event (R123). -/
structure StepOutputs where
  dispCmd : DispCmd
  stalled : Bool
  deriving DecidableEq, Repr

/-- The outputs of a step that sends nothing and did not stall. -/
def StepOutputs.quiet : StepOutputs := ⟨.none, false⟩

/-- Memory: the listed (address, byte) pairs, addresses strictly rising, none holding the byte an unlisted address
reads as (`Memory.wf`). -/
abbrev Memory := List Host.Cell

/-- The state. The first nine fields are the record of 10_state.md R13, under its names; the rest are the model's own. -/
structure State where
  /-- Data registers `V[0]` to `V[15]`; `V[15]` is also the only flag (R14 to R17). -/
  V : Vector Byte 16
  /-- Address register (R22). -/
  I : Word
  /-- Program counter, a byte address (R18 to R21). -/
  pc : Word
  /-- Number of return addresses on the stack, 0 to STACK_DEPTH (R24). -/
  sp : Nat
  /-- The slots `stack[1]` to `stack[STACK_DEPTH]`, slot 1 first; a popped slot keeps its value (R23, R24). -/
  stack : List Word
  /-- Delay timer (R26). -/
  DT : Byte
  /-- Sound timer (R27). -/
  ST : Byte
  /-- Input-state snapshot: bit `k` is key `k`, 1 = pressed (R28). -/
  keys : BitVec 16
  /-- Memory (R29). -/
  mem : Memory
  /-- The parameters of 00_scope.md R6, constant over a run (the model's own field, log 4). -/
  cfg : Params
  /-- The inputs presented to the coming step (50_interfaces.md R115; the model's own field, log 1). -/
  inputs : StepInputs
  /-- The outputs of the last completed step (R115; the model's own field, log 3). -/
  out : StepOutputs
  /-- The environment's moves already settled, next first (the model's own field, log 1). -/
  schedule : List EnvMove
  /-- How many moves the environment has made: the index of the next free one (the model's own field, log 1). -/
  tick : Nat
  deriving DecidableEq, Repr

/-- Reset for any parameters and any environment (10_state.md R32, 70_reset_and_hazards.md R148, R149): everything zero,
the stack empty, `pc` at the load address, and the key snapshot and step inputs as the input sources drive them. -/
def State.resetWith (p : Params) (keys : BitVec 16) (inputs : StepInputs) : State where
  V := Vector.replicate 16 0
  I := 0
  pc := BitVec.ofNat 16 p.loadAddress
  sp := 0
  stack := List.replicate p.stackDepth 0
  DT := 0
  ST := 0
  keys := keys
  mem := []
  cfg := p
  inputs := inputs
  out := .quiet
  schedule := []
  tick := 0

/-- The machine right after reset, with the default parameters of R6. DESIGN CHOICE, unsafe (log 2): the spec gives
`keys` no reset value and the step inputs are free; here no key is pressed, the random byte is 0, there is no key event
and the reply bit is 0. -/
def State.reset : State := .resetWith .default 0 ⟨0, none, false⟩

end Sys2Proof.Machine
end

