-- ==== Sys2Proof/Machine/Ops.lean ====
section
/-! DEFINITION. The named operations over memory, registers, stack and program counter that every meaning goes
through (`memory_addr_unit`, `register_file`, `stack_ptr_logic`, `program_counter`; 50_interfaces.md R114).
This hardware has no exception entry and no return from exception (60_exceptions.md R140, R141): a failing operation
answers the fault and no state, so that nothing has changed (R135). -/

namespace Sys2Proof.Machine

/-! ## Memory (20_memory.md) -/

/-- What an unlisted address reads as: memory is zero after reset (10_state.md R32, R33). -/
def Memory.unlisted : Byte := 0

/-- The byte at an address. -/
def Memory.byteAt : Memory → Nat → Byte
  | [], _ => Memory.unlisted
  | (b, u) :: m, a => if a = b then u else Memory.byteAt m a

/-- The list with the byte `v` at `a` in front, or without an entry when `v` is what an unlisted address reads as. -/
def Memory.cons (a : Nat) (v : Byte) (m : Memory) : Memory := if v = Memory.unlisted then m else (a, v) :: m

/-- Store a byte, keeping the canonical form. -/
def Memory.setByte : Memory → Nat → Byte → Memory
  | [], a, v => Memory.cons a v []
  | (b, u) :: m, a, v =>
    if a < b then Memory.cons a v ((b, u) :: m)
    else if a = b then Memory.cons a v m
    else (b, u) :: Memory.setByte m a v

/-- The canonical form from address `lo` on: addresses strictly rising, no entry equal to the unlisted byte. -/
def Memory.wfFrom : Nat → Memory → Bool
  | _, [] => true
  | lo, (a, v) :: m => decide (lo ≤ a) && v != Memory.unlisted && Memory.wfFrom (a + 1) m

/-- The canonical form of a memory. -/
def Memory.wf (m : Memory) : Bool := Memory.wfFrom 0 m

/-- Every listed address is below `size`. -/
def Memory.within (size : Nat) (m : Memory) : Bool := m.all (fun c => decide (c.1 < size))

/-- `MemRead(addr, 1)` (R39). -/
def memRead1 (s : State) (a : Nat) : Except Fault Byte :=
  if s.cfg.memorySize ≤ a then .error (.addressOutOfBounds (.addr a)) else .ok (s.mem.byteAt a)

/-- `MemRead(addr, 2)`, big-endian (R37 to R39). -/
def memRead2 (s : State) (a : Nat) : Except Fault Word :=
  if s.cfg.memorySize ≤ a + 1 then .error (.addressOutOfBounds (.addr a))
  else .ok (wordOfBytes (s.mem.byteAt a) (s.mem.byteAt (a + 1)))

/-- `MemWrite(addr, 1, v)` (R40). -/
def memWrite1 (s : State) (a : Nat) (v : Byte) : Except Fault State :=
  if s.cfg.memorySize ≤ a then .error (.addressOutOfBounds (.addr a)) else .ok { s with mem := s.mem.setByte a v }

/-- `MemWrite(addr, 2, v)`, big-endian; the bounds check precedes both byte writes (R40). -/
def memWrite2 (s : State) (a : Nat) (v : Word) : Except Fault State :=
  if s.cfg.memorySize ≤ a + 1 then .error (.addressOutOfBounds (.addr a))
  else .ok { s with mem := (s.mem.setByte a (highByte v)).setByte (a + 1) (lowByte v) }

/-- Fetch: the word at `pc`; changes nothing (40_step_and_dispatch.md R68, R69). -/
def fetch (s : State) : Except Fault Word := memRead2 s s.pc.toNat

/-! ## Registers (10_state.md R14, R15: no register is hardwired) -/

/-- Read `V[r]`. -/
def State.reg (s : State) (r : Reg) : Byte := s.V.get r

/-- Write `V[r]`. -/
def State.setReg (s : State) (r : Reg) (v : Byte) : State := { s with V := s.V.set r v }

/-- Write the address register `I`. -/
def State.setI (s : State) (a : Word) : State := { s with I := a }

/-! ## Return stack (10_state.md R24) -/

/-- The stack slot `stack[k]`; slots are numbered from 1. A number that is no slot reads 0 (log 7). -/
def State.slot (s : State) (k : Nat) : Word := if k = 0 then 0 else s.stack.getD (k - 1) 0

/-- Push: `sp` is incremented, then the new `stack[sp]` written; a full stack fails (R24, 41_control_flow.md R82). -/
def push (s : State) (v : Word) : Except Fault State :=
  if s.cfg.stackDepth ≤ s.sp then .error (.addressOutOfBounds .stack)
  else .ok { s with stack := s.stack.set s.sp v, sp := s.sp + 1 }

/-- Pop: `stack[sp]` is read, then `sp` decremented; the slot keeps its value; an empty stack fails (R24, R80). -/
def pop (s : State) : Except Fault (Word × State) :=
  if s.sp = 0 then .error (.addressOutOfBounds .stack) else .ok (s.slot s.sp, { s with sp := s.sp - 1 })

/-! ## Program counter and outputs (40_step_and_dispatch.md R75, 50_interfaces.md R115, R129) -/

/-- End the instruction with `pc` at `target` and nothing sent. -/
def State.goto (s : State) (target : Word) : State := { s with pc := target, out := .quiet }

/-- The uniform advance: `pc + 2` (R75). -/
def State.advance (s : State) : State := s.goto (s.pc + 2)

/-- A skip: `pc + 4` when the condition holds, `pc + 2` when not (42_skips.md R84). -/
def State.skipIf (s : State) (cond : Bool) : State := s.goto (if cond then s.pc + 4 else s.pc + 2)

/-- Send a display command: the step's output (R118). -/
def State.send (s : State) (c : DispCmd) : State := { s with out := ⟨c, false⟩ }

/-- A completed step that changes nothing and marks itself stalled (R112, R123). -/
def State.stall (s : State) : State := { s with out := ⟨.none, true⟩ }

/-! ## Status of a step (50_interfaces.md R123, 60_exceptions.md R132) -/

/-- The numeric status code R132 assigns: 0 completed, 1 `AddressOutOfBounds`, 2 `InvalidOpcode`; none for a refusal,
which is the model's own outcome. -/
def statusCode : Host.Outcome State Fault Refusal → Option Nat
  | .next _ => some 0
  | .fault (.addressOutOfBounds _) => some 1
  | .fault (.invalidOpcode _) => some 2
  | .refused _ => none

end Sys2Proof.Machine
end

