-- ==== Sys2Proof/Machine/Flags.lean ====
section
/-! DEFINITION. `alu_with_flags` (50_interfaces.md R131, 44_alu_with_flags.md R103): each result computed exactly and then
narrowed to 8 bits, and the bit each operation reports. There is no flag input (10_state.md R16). -/

namespace Sys2Proof.Machine

/-- The value of the flag register for a reported bit: 1 or 0 (10_state.md R17). -/
def flagByte (b : Bool) : Byte := if b then 1 else 0

/-- Write the flag: `V[15]` (R17). -/
def State.setFlag (s : State) (b : Bool) : State := s.setReg flagReg (flagByte b)

/-- `(a + b) mod 256` (R91, R98). -/
def addResult (a b : Byte) : Byte := BitVec.ofNat 8 (a.toNat + b.toNat)

/-- Carry out of bit 7: the exact sum exceeds 255 (R98). -/
def addCarry (a b : Byte) : Bool := decide (255 < a.toNat + b.toNat)

/-- `(a - b) mod 256` (R99, R101). -/
def subResult (a b : Byte) : Byte := BitVec.ofNat 8 (a.toNat + 256 - b.toNat)

/-- No borrow in `a - b`: the inverse of a borrow flag (R99, R101). -/
def subNoBorrow (a b : Byte) : Bool := decide (b.toNat ≤ a.toNat)

/-- `a >> 1`, logical (R100). -/
def shrResult (a : Byte) : Byte := BitVec.ofNat 8 (a.toNat / 2)

/-- The bit a right shift moves out: bit 0 (R100). -/
def shrOut (a : Byte) : Bool := a.getLsbD 0

/-- `(a << 1) mod 256` (R102). -/
def shlResult (a : Byte) : Byte := BitVec.ofNat 8 (a.toNat * 2)

/-- The bit a left shift moves out: bit 7 (R102). -/
def shlOut (a : Byte) : Bool := a.getLsbD 7

end Sys2Proof.Machine
end

