-- ==== Sys2Proof/Machine/Alu.lean ====
section
/-! DEFINITION. The ALU operations of group 8 (44_alu_with_flags.md R94 to R104). Operands are read before any write
(40_step_and_dispatch.md R74); where `x = 15` the later of the two writes is the one that stays (R77, R104). -/

namespace Sys2Proof.Machine

/-- or (R95): no flag. -/
def execOrReg (x y : Reg) (s : State) : Host.Outcome State Fault Refusal :=
  .next (s.setReg x (s.reg x ||| s.reg y)).advance

/-- and (R96): no flag. -/
def execAndReg (x y : Reg) (s : State) : Host.Outcome State Fault Refusal :=
  .next (s.setReg x (s.reg x &&& s.reg y)).advance

/-- xor (R97): no flag. -/
def execXorReg (x y : Reg) (s : State) : Host.Outcome State Fault Refusal :=
  .next (s.setReg x (s.reg x ^^^ s.reg y)).advance

/-- add-reg (R98): the sum first, the flag second. -/
def execAddReg (x y : Reg) (s : State) : Host.Outcome State Fault Refusal :=
  .next ((s.setReg x (addResult (s.reg x) (s.reg y))).setFlag (addCarry (s.reg x) (s.reg y))).advance

/-- sub-reg (R99): the difference first, the flag second. -/
def execSubReg (x y : Reg) (s : State) : Host.Outcome State Fault Refusal :=
  .next ((s.setReg x (subResult (s.reg x) (s.reg y))).setFlag (subNoBorrow (s.reg x) (s.reg y))).advance

/-- shift-right (R100): the flag first, the shifted value second; `y` is not read (R59). -/
def execShiftRight (x : Reg) (s : State) : Host.Outcome State Fault Refusal :=
  .next ((s.setFlag (shrOut (s.reg x))).setReg x (shrResult (s.reg x))).advance

/-- sub-reg-rev (R101): the difference first, the flag second. -/
def execSubRegRev (x y : Reg) (s : State) : Host.Outcome State Fault Refusal :=
  .next ((s.setReg x (subResult (s.reg y) (s.reg x))).setFlag (subNoBorrow (s.reg y) (s.reg x))).advance

/-- shift-left (R102): the flag first, the shifted value second; `y` is not read (R59). -/
def execShiftLeft (x : Reg) (s : State) : Host.Outcome State Fault Refusal :=
  .next ((s.setFlag (shlOut (s.reg x))).setReg x (shlResult (s.reg x))).advance

end Sys2Proof.Machine
end

