-- ==== Sys2Proof/Machine/Operands.lean ====
section
/-! DEFINITION. The operand forms: zero-extended immediates, the key index, the sprite rows (30_encoding.md R53,
45_collaborator_ops.md R108, R113). -/

namespace Sys2Proof.Machine

/-- `zext_16(addr)` (R53). -/
def addrOperand (addr : BitVec 12) : Word := addr.setWidth 16

/-- The target of jump-offset: `zext_16(V[0]) + zext_16(addr)`, not reduced to 12 bits (41_control_flow.md R83). -/
def offsetTarget (s : State) (addr : BitVec 12) : Word := (s.reg 0).setWidth 16 + addrOperand addr

/-- The key a key skip tests: the low four bits of `V[x]` (R113). -/
def keyIndex (v : Byte) : Nat := (v.extractLsb' 0 4).toNat

/-- Is key `V[x][3:0]` pressed in the snapshot? (R109, R110) -/
def keyPressed (s : State) (x : Reg) : Bool := s.keys.getLsbD (keyIndex (s.reg x))

/-- The value wait-key stores for key `k`: `zext_8(k)` (R112). -/
def keyValue (k : BitVec 4) : Byte := k.setWidth 8

/-- The `n` sprite bytes from `I` in address order. The bounds check is on the largest address as a natural number and
comes before any read; with `n = 0` there is no check and no read (R108, 20_memory.md R36). -/
def spriteRows (s : State) (n : Nat) : Except Fault (List Byte) :=
  if 0 < n ∧ s.cfg.memorySize ≤ s.I.toNat + n - 1 then .error (.addressOutOfBounds (.addr (s.I.toNat + n - 1)))
  else .ok ((List.range n).map (fun k => s.mem.byteAt (s.I.toNat + k)))

end Sys2Proof.Machine
end

