-- ==== Sys2Proof/Machine/Collab.lean ====
section
/-! DEFINITION. The operations that use a collaborator (45_collaborator_ops.md R105 to R113). A collaborator's answer is
read from the step inputs, which State holds as free values (R105; log 1). -/

namespace Sys2Proof.Machine

/-- clear-display (R106). -/
def execClearDisplay (s : State) : Host.Outcome State Fault Refusal :=
  .next (s.advance.send .clear)

/-- rand-and (R107). -/
def execRandAnd (x : Reg) (imm : Byte) (s : State) : Host.Outcome State Fault Refusal :=
  .next (s.setReg x (s.inputs.randByte &&& imm)).advance

/-- draw (R108): the bounds check, the command with the coordinates as they were, then the flag. -/
def execDraw (x y : Reg) (n : Fin 16) (s : State) : Host.Outcome State Fault Refusal :=
  match spriteRows s n.val with
  | .error f => .fault f
  | .ok rows => .next ((s.setFlag s.inputs.dispHit).advance.send (.draw (s.reg x) (s.reg y) rows))

/-- skip-key-pressed (R109). -/
def execSkipKeyPressed (x : Reg) (s : State) : Host.Outcome State Fault Refusal :=
  .next (s.skipIf (keyPressed s x))

/-- skip-key-not-pressed (R110). -/
def execSkipKeyNotPressed (x : Reg) (s : State) : Host.Outcome State Fault Refusal :=
  .next (s.skipIf (!keyPressed s x))

/-- load-delay (R111). -/
def execLoadDelay (x : Reg) (s : State) : Host.Outcome State Fault Refusal :=
  .next (s.setReg x s.DT).advance

/-- wait-key (R112): with no key event a completed step that changes nothing. -/
def execWaitKey (x : Reg) (s : State) : Host.Outcome State Fault Refusal :=
  match s.inputs.keyEvent with
  | none => .next s.stall
  | some k => .next (s.setReg x (keyValue k)).advance

end Sys2Proof.Machine
end

