-- ==== Sys2Proof/Machine/Control.lean ====
section
/-! DEFINITION. Control transfer: return, jump, call, jump-offset (41_control_flow.md R79 to R83). A target is not checked
when it is set (R79). -/

namespace Sys2Proof.Machine

/-- return (R80): pop the return address into `pc`. -/
def execRet (s : State) : Host.Outcome State Fault Refusal :=
  match pop s with
  | .error f => .fault f
  | .ok (target, t) => .next (t.goto target)

/-- jump (R81): `pc := addr`. -/
def execJump (addr : BitVec 12) (s : State) : Host.Outcome State Fault Refusal :=
  .next (s.goto (addrOperand addr))

/-- call (R82): push `pc + 2`, then `pc := addr`. -/
def execCall (addr : BitVec 12) (s : State) : Host.Outcome State Fault Refusal :=
  match push s (s.pc + 2) with
  | .error f => .fault f
  | .ok t => .next (t.goto (addrOperand addr))

/-- jump-offset (R83): `pc := V[0] + addr`. -/
def execJumpOffset (addr : BitVec 12) (s : State) : Host.Outcome State Fault Refusal :=
  .next (s.goto (offsetTarget s addr))

end Sys2Proof.Machine
end

