-- ==== Sys2Proof/Machine/Moves.lean ====
section
/-! DEFINITION. Loads and moves without flags (43_load_and_move.md R89 to R93). -/

namespace Sys2Proof.Machine

/-- load-imm (R90). -/
def execLoadImm (x : Reg) (imm : Byte) (s : State) : Host.Outcome State Fault Refusal :=
  .next (s.setReg x imm).advance

/-- add-imm (R91): the carry is discarded and no flag written. -/
def execAddImm (x : Reg) (imm : Byte) (s : State) : Host.Outcome State Fault Refusal :=
  .next (s.setReg x (addResult (s.reg x) imm)).advance

/-- move (R92). -/
def execMove (x y : Reg) (s : State) : Host.Outcome State Fault Refusal :=
  .next (s.setReg x (s.reg y)).advance

/-- load-addr (R93). -/
def execLoadAddr (addr : BitVec 12) (s : State) : Host.Outcome State Fault Refusal :=
  .next (s.setI (addrOperand addr)).advance

end Sys2Proof.Machine
end

