-- ==== Sys2Proof/Machine/Skips.lean ====
section
/-! DEFINITION. The conditional skips on registers and immediates (42_skips.md R84 to R88). -/

namespace Sys2Proof.Machine

/-- skip-eq-imm (R85). -/
def execSkipEqImm (x : Reg) (imm : Byte) (s : State) : Host.Outcome State Fault Refusal :=
  .next (s.skipIf (s.reg x == imm))

/-- skip-ne-imm (R86). -/
def execSkipNeImm (x : Reg) (imm : Byte) (s : State) : Host.Outcome State Fault Refusal :=
  .next (s.skipIf (s.reg x != imm))

/-- skip-eq-reg (R87). -/
def execSkipEqReg (x y : Reg) (s : State) : Host.Outcome State Fault Refusal :=
  .next (s.skipIf (s.reg x == s.reg y))

/-- skip-ne-reg (R88). -/
def execSkipNeReg (x y : Reg) (s : State) : Host.Outcome State Fault Refusal :=
  .next (s.skipIf (s.reg x != s.reg y))

end Sys2Proof.Machine
end

