-- ==== Sys2Proof/Machine/Dispatch.lean ====
section
/-! DEFINITION. Dispatch: each operation to its one handler (40_step_and_dispatch.md R71, R73). -/

namespace Sys2Proof.Machine

def exec (i : Instr) (s : State) : Host.Outcome State Fault Refusal :=
  match i with
  | .clearDisplay => Sys2Proof.Machine.execClearDisplay s
  | .ret => Sys2Proof.Machine.execRet s
  | .jump addr => Sys2Proof.Machine.execJump addr s
  | .call addr => Sys2Proof.Machine.execCall addr s
  | .skipEqImm x imm => Sys2Proof.Machine.execSkipEqImm x imm s
  | .skipNeImm x imm => Sys2Proof.Machine.execSkipNeImm x imm s
  | .skipEqReg x y => Sys2Proof.Machine.execSkipEqReg x y s
  | .skipNeReg x y => Sys2Proof.Machine.execSkipNeReg x y s
  | .loadImm x imm => Sys2Proof.Machine.execLoadImm x imm s
  | .addImm x imm => Sys2Proof.Machine.execAddImm x imm s
  | .move x y => Sys2Proof.Machine.execMove x y s
  | .orReg x y => Sys2Proof.Machine.execOrReg x y s
  | .andReg x y => Sys2Proof.Machine.execAndReg x y s
  | .xorReg x y => Sys2Proof.Machine.execXorReg x y s
  | .addReg x y => Sys2Proof.Machine.execAddReg x y s
  | .subReg x y => Sys2Proof.Machine.execSubReg x y s
  | .shiftRight x _ => Sys2Proof.Machine.execShiftRight x s
  | .subRegRev x y => Sys2Proof.Machine.execSubRegRev x y s
  | .shiftLeft x _ => Sys2Proof.Machine.execShiftLeft x s
  | .loadAddr addr => Sys2Proof.Machine.execLoadAddr addr s
  | .jumpOffset addr => Sys2Proof.Machine.execJumpOffset addr s
  | .randAnd x imm => Sys2Proof.Machine.execRandAnd x imm s
  | .draw x y n => Sys2Proof.Machine.execDraw x y n s
  | .skipKeyPressed x => Sys2Proof.Machine.execSkipKeyPressed x s
  | .skipKeyNotPressed x => Sys2Proof.Machine.execSkipKeyNotPressed x s
  | .loadDelay x => Sys2Proof.Machine.execLoadDelay x s
  | .waitKey x => Sys2Proof.Machine.execWaitKey x s

end Sys2Proof.Machine
end

