-- ==== Sys2Proof/Machine/Ports.lean ====
section
/-! DEFINITION. The ports of the collaborators that act between steps (50_interfaces.md R117, R120, R122) and the
environment's move that follows every completed step (R125, R126; log 1). -/

namespace Sys2Proof.Machine

/-- Write bytes from address `a` upward through the memory primitive (R117). -/
def loadBytesAt (s : State) (a : Nat) : List Byte → Except Fault State
  | [] => .ok s
  | b :: bs =>
    match memWrite1 s a b with
    | .error f => .error f
    | .ok t => loadBytesAt t (a + 1) bs

/-- The program loader's port: the program's bytes from `LOAD_ADDRESS` upward, before the first step. A program that
does not fit is refused by the write primitive, and then no state is answered (R117; log 6). -/
def loadProgram (bytes : List Byte) (s : State) : Except Fault State := loadBytesAt s s.cfg.loadAddress bytes

/-- The timer port's set: plain values for `DT` and `ST` (R122). -/
def setTimers (dt st : Byte) (s : State) : State := { s with DT := dt, ST := st }

/-- The timer port's get (R122). -/
def getTimers (s : State) : Byte × Byte := (s.DT, s.ST)

/-- The input snapshot port (R120). -/
def setKeys (keys : BitVec 16) (s : State) : State := { s with keys := keys }

/-- Present the inputs of the coming step (R115, R119, R121). -/
def presentInputs (inputs : StepInputs) (s : State) : State := { s with inputs := inputs }

/-- One move of the environment: it may change `keys`, `DT`, `ST` and nothing else of CORE (R125), and presents the
inputs of the next step. -/
def applyMove (m : EnvMove) (s : State) : State := presentInputs m.inputs (setTimers m.dt m.st (setKeys m.keys s))

/-- The environment's next move: the head of the schedule, or the free one when nothing is scheduled. -/
def nextMove (s : State) : EnvMove :=
  match s.schedule with
  | m :: _ => m
  | [] => Config.envMove s.tick

/-- What happens between two steps (R125). -/
def betweenSteps (s : State) : State :=
  { applyMove (nextMove s) s with schedule := s.schedule.tail, tick := s.tick + 1 }

end Sys2Proof.Machine
end

