-- ==== Sys2Proof/Machine/Step.lean ====
section
/-! DEFINITION. The step: fetch, decode, dispatch, execute (40_step_and_dispatch.md R67, R78), and after a completed step
the environment's move before the next one (50_interfaces.md R125; log 1). -/

namespace Sys2Proof.Machine

/-- A completed step, followed by what happens between steps; a failed one is the outcome as it is (R135, R137). -/
def thenEnvironment : Host.Outcome State Fault Refusal → Host.Outcome State Fault Refusal
  | .next t => .next (betweenSteps t)
  | .fault f => .fault f
  | .refused r => .refused r

/-- One step of the machine (R78). -/
def step (s : State) : Host.Outcome State Fault Refusal :=
  match fetch s with
  | .error f => .fault f
  | .ok w =>
    match decode w with
    | .invalidOpcode v => .fault (.invalidOpcode v)
    | .instr i => thenEnvironment (exec i s)

/-- `s` with the instruction word whose bits are the low `nbits` bits of `w` stored at `pc`, through the memory's own
write primitive; `s` itself when `pc` has no two bytes to fetch (R37). Log 5 says how a program comes to run. -/
def State.withFetchWord (s : State) (nbits w : Nat) : State :=
  match memWrite2 s s.pc.toNat (BitVec.ofNat 16 (w % 2 ^ nbits)) with
  | .ok t => t
  | .error _ => s

end Sys2Proof.Machine
end

