-- ==== Sys2Proof/Safety.lean ====
section
/-! DEFINITION. The terms claims use: the invariant of a run, what a safe run is, what an instruction leaves alone, and
the spec's own tables about all instructions at once (registers read and written, the next `pc`, the failing
conditions), written from the spec and not from the meanings. -/

namespace Sys2Proof.Machine

/-! ## The invariant -/

/-- What holds of every state a run reaches: legal parameters (00_scope.md R6), memory canonical and inside its size
(10_state.md R29), `I` in the 12-bit range (R22), the stack of its fixed depth with `sp` in range and no entry above
0x1000 (R24, 41_control_flow.md R80), and `pc` at most 0x10FE (R21). -/
structure State.Inv (s : State) : Prop where
  params : s.cfg.wellFormed = true
  memCanonical : s.mem.wf = true
  memInside : s.mem.within s.cfg.memorySize = true
  iRange : s.I.toNat ≤ 0x0FFF
  spRange : s.sp ≤ s.cfg.stackDepth
  stackLength : s.stack.length = s.cfg.stackDepth
  slotRange : ∀ v ∈ s.stack, v.toNat ≤ 0x1000
  pcRange : s.pc.toNat ≤ 0x10FE

/-- A run of `k` steps that meets no failure: a failure is the end of a run and never a success (60_exceptions.md R137). -/
def State.RunsSafely (s : State) (k : Nat) : Prop := ∃ t, Sys2Proof.core.run k s = .next t

/-! ## Frames -/

/-- Every data register outside `changed` is as before. -/
def SameRegs (changed : List Reg) (s t : State) : Prop := ∀ r, r ∉ changed → t.reg r = s.reg r

/-- Stack pointer and every stack slot are as before. -/
def SameStack (s t : State) : Prop := t.sp = s.sp ∧ t.stack.length = s.stack.length ∧ ∀ k, t.slot k = s.slot k

/-- Every byte of memory reads as before. -/
def SameMemory (s t : State) : Prop := ∀ a, t.mem.byteAt a = s.mem.byteAt a

/-- The timers, the key snapshot, the parameters, and the model's own record of the environment are as before. -/
def SameSurroundings (s t : State) : Prop :=
  t.DT = s.DT ∧ t.ST = s.ST ∧ t.keys = s.keys ∧ t.cfg = s.cfg ∧ t.inputs = s.inputs ∧ t.schedule = s.schedule
    ∧ t.tick = s.tick

/-- Nothing has changed but `pc`, the step's outputs and the data registers in `changed`. -/
structure Frame (changed : List Reg) (s t : State) : Prop where
  regs : SameRegs changed s t
  addr : t.I = s.I
  stack : SameStack s t
  memory : SameMemory s t
  surroundings : SameSurroundings s t

/-! ## The spec's tables about all instructions -/

/-- The data registers an instruction reads (10_state.md R15, column "reads"). -/
def readRegs : Instr → List Reg
  | .skipEqImm x _ | .skipNeImm x _ | .addImm x _ | .shiftRight x _ | .shiftLeft x _ | .skipKeyPressed x
  | .skipKeyNotPressed x => [x]
  | .skipEqReg x y | .skipNeReg x y | .orReg x y | .andReg x y | .xorReg x y | .addReg x y | .subReg x y
  | .subRegRev x y | .draw x y _ => [x, y]
  | .move _ y => [y]
  | .jumpOffset _ => [0]
  | .loadImm _ _ | .randAnd _ _ | .loadDelay _ | .waitKey _ | .clearDisplay | .ret | .jump _ | .call _ | .loadAddr _ => []

/-- The data registers an instruction may write (10_state.md R15, column "writes"). -/
def writeRegs : Instr → List Reg
  | .loadImm x _ | .addImm x _ | .move x _ | .orReg x _ | .andReg x _ | .xorReg x _ | .randAnd x _ | .loadDelay x
  | .waitKey x => [x]
  | .addReg x _ | .subReg x _ | .subRegRev x _ | .shiftRight x _ | .shiftLeft x _ => [x, 15]
  | .draw _ _ _ => [15]
  | .skipEqImm _ _ | .skipNeImm _ _ | .skipEqReg _ _ | .skipNeReg _ _ | .jumpOffset _ | .skipKeyPressed _
  | .skipKeyNotPressed _ | .clearDisplay | .ret | .jump _ | .call _ | .loadAddr _ => []

/-- `pc` after a skip at `pc` (R75, class "skip"). -/
def skipTarget (pc : Word) (taken : Prop) [Decidable taken] : Word := if taken then pc + 4 else pc + 2

/-- `pc` after a completed step (40_step_and_dispatch.md R75, the table). -/
def nextPcOf (s : State) : Instr → Word
  | .jump addr | .call addr => BitVec.ofNat 16 addr.toNat
  | .jumpOffset addr => BitVec.ofNat 16 ((s.reg 0).toNat + addr.toNat)
  | .ret => s.slot s.sp
  | .skipEqImm x imm => skipTarget s.pc (s.reg x = imm)
  | .skipNeImm x imm => skipTarget s.pc (s.reg x ≠ imm)
  | .skipEqReg x y => skipTarget s.pc (s.reg x = s.reg y)
  | .skipNeReg x y => skipTarget s.pc (s.reg x ≠ s.reg y)
  | .skipKeyPressed x => skipTarget s.pc (s.keys.getLsbD ((s.reg x).toNat % 16) = true)
  | .skipKeyNotPressed x => skipTarget s.pc (s.keys.getLsbD ((s.reg x).toNat % 16) = false)
  | .waitKey _ => if s.inputs.keyEvent = none then s.pc else s.pc + 2
  | .clearDisplay | .loadImm _ _ | .addImm _ _ | .move _ _ | .orReg _ _ | .andReg _ _ | .xorReg _ _ | .addReg _ _
  | .subReg _ _ | .shiftRight _ _ | .subRegRev _ _ | .shiftLeft _ _ | .loadAddr _ | .randAnd _ _ | .draw _ _ _
  | .loadDelay _ => s.pc + 2

/-- The failing condition of an instruction and its `info` (60_exceptions.md R133); `none` when it completes. -/
def failureOf (s : State) : Instr → Option FaultInfo
  | .draw _ _ n =>
    if 0 < n.val ∧ s.cfg.memorySize < s.I.toNat + n.val then some (.addr (s.I.toNat + n.val - 1)) else none
  | .call _ => if s.cfg.stackDepth ≤ s.sp then some .stack else none
  | .ret => if s.sp = 0 then some .stack else none
  | .clearDisplay | .jump _ | .skipEqImm _ _ | .skipNeImm _ _ | .skipEqReg _ _ | .skipNeReg _ _ | .loadImm _ _
  | .addImm _ _ | .move _ _ | .orReg _ _ | .andReg _ _ | .xorReg _ _ | .addReg _ _ | .subReg _ _ | .shiftRight _ _
  | .subRegRev _ _ | .shiftLeft _ _ | .loadAddr _ | .jumpOffset _ | .randAnd _ _ | .skipKeyPressed _
  | .skipKeyNotPressed _ | .loadDelay _ | .waitKey _ => none

/-- The number of the word at address `a`: the byte at the lower address is the more significant (20_memory.md R38). -/
def wordNumberAt (s : State) (a : Nat) : Nat := 256 * (s.mem.byteAt a).toNat + (s.mem.byteAt (a + 1)).toNat

end Sys2Proof.Machine
end

