-- ==== Sys2Proof/Certificates/Slice0/Obligations.lean ====
section
/-! DEFINITION. The statements for the provers, in the order of OBLIGATIONS.json. Every statement holds for every value of
the free inputs (the fields `inputs` and `schedule` and the opaque `Config.envMove`). -/

open Sys2Proof Sys2Proof.Machine

/-! ## Encoding (30_encoding.md). The numeric patterns are the spec's own general knowledge (D1, K1; log 9). -/

/-- Sample words, at least one valid word of each of the six formats of R54 and each of the sixteen groups, read by the decoder
as R56 gives them, and two invalid words. -/
def Obligations.SampleWordsDecode : Prop :=
  decode 0x00E0 = .instr .clearDisplay ∧ decode 0x00EE = .instr .ret ∧ decode 0x1240 = .instr (.jump 0x240)
    ∧ decode 0x2ABC = .instr (.call 0xABC) ∧ decode 0x3505 = .instr (.skipEqImm 5 0x05)
    ∧ decode 0x4506 = .instr (.skipNeImm 5 0x06) ∧ decode 0x51A0 = .instr (.skipEqReg 1 10)
    ∧ decode 0x63AB = .instr (.loadImm 3 0xAB) ∧ decode 0x7320 = .instr (.addImm 3 0x20)
    ∧ decode 0x8F14 = .instr (.addReg 15 1) ∧ decode 0x81A6 = .instr (.shiftRight 1 10)
    ∧ decode 0x91A0 = .instr (.skipNeReg 1 10) ∧ decode 0xA220 = .instr (.loadAddr 0x220)
    ∧ decode 0xB300 = .instr (.jumpOffset 0x300) ∧ decode 0xC30F = .instr (.randAnd 3 0x0F)
    ∧ decode 0xD125 = .instr (.draw 1 2 5) ∧ decode 0xE3A1 = .instr (.skipKeyNotPressed 3)
    ∧ decode 0xF40A = .instr (.waitKey 4)
    ∧ decode 0x9001 = .invalidOpcode 0x9001 ∧ decode 0x0000 = .invalidOpcode 0x0000

/-- Decoding an instruction's word, or its two bytes before any other bytes, gives the instruction back: no operand bit is
dropped (every `Instr` is well formed, R64; the syntax keeps also the unused `y` of a shift, log 8). -/
def Obligations.DecodeOfEncodeIsTheInstruction : Prop :=
  ∀ (i : Instr) (rest : List Byte),
    decode (encode i) = .instr i ∧ decodeBytes (encodeBytes i ++ rest) = .instr i rest

/-- No other word decodes to the same `Instr`: encoding what was decoded gives the word back, and a rejection names the rejected
word. For the shift words this holds because the syntax keeps the unused `y`, which is the model's choice (log 8, DEDUCED): the
16 words that differ in `y` alone are 16 `Instr` of one effect (R59, the spec's own decision D11). -/
def Obligations.EncodeOfDecodeIsTheWord : Prop :=
  ∀ w : Word, (∀ i, decode w = .instr i → encode i = w) ∧ (∀ v, decode w = .invalidOpcode v → v = w)

/-- Where the fields stand in the word (R52, R54, R56), in arithmetic on the word's number: `group` counts 4096, `x` 256,
`y` 16, `n` 1, `imm` the low byte, `addr` the low 12 bits. All 27 operations. -/
def Obligations.EncodedFieldsStandInPlace : Prop :=
  ∀ (x y : Reg) (n : Fin 16) (imm : Byte) (addr : BitVec 12),
    (encode .clearDisplay).toNat = 0x00E0 ∧ (encode .ret).toNat = 0x00EE
    ∧ (encode (.jump addr)).toNat = 0x1000 + addr.toNat ∧ (encode (.call addr)).toNat = 0x2000 + addr.toNat
    ∧ (encode (.skipEqImm x imm)).toNat = 0x3000 + 256 * x.val + imm.toNat
    ∧ (encode (.skipNeImm x imm)).toNat = 0x4000 + 256 * x.val + imm.toNat
    ∧ (encode (.skipEqReg x y)).toNat = 0x5000 + 256 * x.val + 16 * y.val
    ∧ (encode (.skipNeReg x y)).toNat = 0x9000 + 256 * x.val + 16 * y.val
    ∧ (encode (.loadImm x imm)).toNat = 0x6000 + 256 * x.val + imm.toNat
    ∧ (encode (.addImm x imm)).toNat = 0x7000 + 256 * x.val + imm.toNat
    ∧ (encode (.move x y)).toNat = 0x8000 + 256 * x.val + 16 * y.val
    ∧ (encode (.orReg x y)).toNat = 0x8001 + 256 * x.val + 16 * y.val
    ∧ (encode (.andReg x y)).toNat = 0x8002 + 256 * x.val + 16 * y.val
    ∧ (encode (.xorReg x y)).toNat = 0x8003 + 256 * x.val + 16 * y.val
    ∧ (encode (.addReg x y)).toNat = 0x8004 + 256 * x.val + 16 * y.val
    ∧ (encode (.subReg x y)).toNat = 0x8005 + 256 * x.val + 16 * y.val
    ∧ (encode (.shiftRight x y)).toNat = 0x8006 + 256 * x.val + 16 * y.val
    ∧ (encode (.subRegRev x y)).toNat = 0x8007 + 256 * x.val + 16 * y.val
    ∧ (encode (.shiftLeft x y)).toNat = 0x800E + 256 * x.val + 16 * y.val
    ∧ (encode (.loadAddr addr)).toNat = 0xA000 + addr.toNat
    ∧ (encode (.jumpOffset addr)).toNat = 0xB000 + addr.toNat
    ∧ (encode (.randAnd x imm)).toNat = 0xC000 + 256 * x.val + imm.toNat
    ∧ (encode (.draw x y n)).toNat = 0xD000 + 256 * x.val + 16 * y.val + n.val
    ∧ (encode (.skipKeyPressed x)).toNat = 0xE09E + 256 * x.val
    ∧ (encode (.skipKeyNotPressed x)).toNat = 0xE0A1 + 256 * x.val
    ∧ (encode (.loadDelay x)).toNat = 0xF007 + 256 * x.val ∧ (encode (.waitKey x)).toNat = 0xF00A + 256 * x.val

/-- The decoder accepts exactly the words that select a row of R56's table, the row bears the name of the instruction
decoded, and the words it rejects are exactly those R61 lists. -/
def Obligations.DecoderAcceptsExactlyTheTable : Prop :=
  ∀ w : Word,
    (∀ i, decode w = .instr i → ∃ r ∈ opcodeTable, r.selects w = true ∧ r.mnemonic = i.mnemonic)
    ∧ ((∃ i, decode w = .instr i) ↔ wordWellFormed w = true)
    ∧ (decode w = .invalidOpcode w ↔ wordListedInvalid w.toNat = true)

/-- No two patterns overlap: a word selects at most one row (R55). -/
def Obligations.NoTwoPatternsOverlap : Prop :=
  ∀ (w : Word) (r q : OpcodeRow), r ∈ opcodeTable → q ∈ opcodeTable → r.selects w = true → q.selects w = true → r = q

/-! ## The step (40_step_and_dispatch.md, 60_exceptions.md) -/

/-- The step runs the decoded instruction: when the two bytes at `pc` encode `i`, the step is `exec i`, and when that
completes the environment's move follows (the model's own reading of R125, log 1); a failure of `exec` is the step's. -/
def Obligations.StepRunsTheDecodedInstruction : Prop :=
  ∀ (s : State) (i : Instr), s.pc.toNat + 1 < s.cfg.memorySize →
    [s.mem.byteAt s.pc.toNat, s.mem.byteAt (s.pc.toNat + 1)] = encodeBytes i →
    (∀ t, exec i s = .next t → step s = .next (betweenSteps t)) ∧ ∀ f, exec i s = .fault f → step s = .fault f

/-- Fetch fails exactly when `pc + 1 >= MEMORY_SIZE` (R69), on natural numbers, and then that is the step's failure
whatever memory holds; with the default size that is `pc >= 0x0FFF`. -/
def Obligations.FetchFailsExactlyAtMemoryEnd : Prop :=
  ∀ s : State,
    (s.cfg.memorySize ≤ s.pc.toNat + 1 → fetch s = .error (.addressOutOfBounds (.addr s.pc.toNat))
      ∧ step s = .fault (.addressOutOfBounds (.addr s.pc.toNat)))
    ∧ (s.pc.toNat + 1 < s.cfg.memorySize → ∃ w, fetch s = .ok w ∧ w.toNat = wordNumberAt s s.pc.toNat)
    ∧ (s.cfg = Params.default → (0x0FFF ≤ s.pc.toNat ↔ ∃ f, fetch s = .error f))

/-- A step fails with `InvalidOpcode` exactly when its fetch succeeds and the word fetched is one of the words R61 lists;
the failure carries the word (R72, R134). -/
def Obligations.InvalidWordsFail : Prop :=
  ∀ (s : State) (v : Word), step s = .fault (.invalidOpcode v) ↔
    s.pc.toNat + 1 < s.cfg.memorySize ∧ v.toNat = wordNumberAt s s.pc.toNat ∧ wordListedInvalid v.toNat = true

/-- An instruction completes exactly when it has no failing condition of R133, and otherwise fails with that condition's
`info`; no instruction is ever refused. The stack's two conditions are the spec's decision D8; that a call fails also with
`sp` above STACK_DEPTH, where R133 says `sp = STACK_DEPTH`, is the model's choice for states no run reaches (log 7). -/
def Obligations.ExecCompletesUnlessR133 : Prop :=
  ∀ (i : Instr) (s : State),
    (failureOf s i = none → ∃ t, exec i s = .next t)
    ∧ (∀ info, failureOf s i = some info → exec i s = .fault (.addressOutOfBounds info))

/-- Everything a step can answer, in the order of priority of R138: the fetch failure, `InvalidOpcode`, the instruction's
own failure, or a completed step. There are only these two failure kinds (R132) and the model refuses nothing. That a
completed step ends with the environment's move is the model's choice (log 1); the stack's failing conditions are the spec's
decision D8, and their extension to `sp` above STACK_DEPTH the model's choice for states no run reaches (log 7). -/
def Obligations.EveryStepOutcomeByPriority : Prop :=
  ∀ s : State,
    (s.cfg.memorySize ≤ s.pc.toNat + 1 ∧ step s = .fault (.addressOutOfBounds (.addr s.pc.toNat)))
    ∨ (s.pc.toNat + 1 < s.cfg.memorySize ∧ wordListedInvalid (wordNumberAt s s.pc.toNat) = true
        ∧ step s = .fault (.invalidOpcode (BitVec.ofNat 16 (wordNumberAt s s.pc.toNat))))
    ∨ (s.pc.toNat + 1 < s.cfg.memorySize ∧ ∃ i, (encode i).toNat = wordNumberAt s s.pc.toNat
        ∧ ((∃ info, failureOf s i = some info ∧ step s = .fault (.addressOutOfBounds info))
          ∨ (failureOf s i = none ∧ ∃ t, exec i s = .next t ∧ step s = .next (betweenSteps t))))

/-- A failure repeats: whatever the environment does to `keys`, `DT`, `ST` and the inputs, the step fails again in the
same way (R141). -/
def Obligations.FailureRepeatsWhateverTheEnvironmentDoes : Prop :=
  ∀ (s : State) (f : Fault) (m : EnvMove), step s = .fault f → step (applyMove m s) = .fault f

/-! ## Control transfer (41_control_flow.md) -/

/-- jump (R81): `pc` is the address, zero-extended, whatever it was; nothing else changes; a jump to its own address leaves
the state as it was but for the step's outputs; a jump to 0xFFF completes and the next fetch fails. -/
def Obligations.JumpSetsPcToItsAddress : Prop :=
  ∀ (addr : BitVec 12) (s : State), ∃ t, exec (.jump addr) s = .next t
    ∧ t.pc.toNat = addr.toNat ∧ t.out = .quiet ∧ Frame [] s t
    ∧ (s.pc.toNat = addr.toNat → t = { s with out := .quiet })
    ∧ (addr = 0xFFF → s.cfg.memorySize ≤ 4096 → fetch t = .error (.addressOutOfBounds (.addr 0xFFF)))

/-- call (R82): with room on the stack, `pc + 2` goes to `stack[sp + 1]`, `sp` rises by one, `pc` is the address, and no
other slot, register or byte changes. With a full stack (the spec's decision D8) it fails. -/
def Obligations.CallPushesTheReturnAddress : Prop :=
  ∀ (addr : BitVec 12) (s : State), s.stack.length = s.cfg.stackDepth →
    (s.sp < s.cfg.stackDepth → ∃ t, exec (.call addr) s = .next t
      ∧ t.sp = s.sp + 1 ∧ t.slot (s.sp + 1) = s.pc + 2 ∧ (∀ k, k ≠ s.sp + 1 → t.slot k = s.slot k)
      ∧ t.stack.length = s.stack.length ∧ t.pc.toNat = addr.toNat ∧ t.out = .quiet
      ∧ SameRegs [] s t ∧ t.I = s.I ∧ SameMemory s t ∧ SameSurroundings s t)
    ∧ (s.sp = s.cfg.stackDepth → exec (.call addr) s = .fault (.addressOutOfBounds .stack))

/-- return (R80): with a return address on the stack, `pc` is `stack[sp]`, `sp` falls by one, every slot keeps its value,
and no register or byte changes. With an empty stack (the spec's decision D8) it fails. -/
def Obligations.ReturnPopsTheReturnAddress : Prop :=
  ∀ s : State,
    (0 < s.sp → ∃ t, exec .ret s = .next t
      ∧ t.pc = s.slot s.sp ∧ t.sp = s.sp - 1 ∧ (∀ k, t.slot k = s.slot k) ∧ t.stack.length = s.stack.length
      ∧ t.out = .quiet ∧ SameRegs [] s t ∧ t.I = s.I ∧ SameMemory s t ∧ SameSurroundings s t)
    ∧ (s.sp = 0 → exec .ret s = .fault (.addressOutOfBounds .stack))

/-- call and return match (test property S4): a return from anywhere, with the stack as the call left it and whatever the
program did to the rest of the state, comes back to the address after the call with the stack pointer as before. -/
def Obligations.ReturnComesBackFromCall : Prop :=
  ∀ (addr : BitVec 12) (s t u : State), s.stack.length = s.cfg.stackDepth → exec (.call addr) s = .next t →
    u.sp = t.sp → u.stack = t.stack →
    ∃ v, exec .ret u = .next v ∧ v.pc = s.pc + 2 ∧ v.sp = s.sp ∧ ∀ k, k ≤ s.sp → v.slot k = s.slot k

/-- jump-offset (R83): `pc` is `V[0] + addr` as natural numbers, and nothing else changes. That the sum is not
reduced to 12 bits is the spec's own decision D24 (log 9). -/
def Obligations.JumpOffsetAddsV0 : Prop :=
  ∀ (addr : BitVec 12) (s : State), ∃ t, exec (.jumpOffset addr) s = .next t
    ∧ t.pc.toNat = (s.reg 0).toNat + addr.toNat ∧ t.out = .quiet ∧ Frame [] s t

/-- Only call and return touch the stack (10_state.md R23, R25), and `sp` moves by one. -/
def Obligations.OnlyCallAndReturnTouchTheStack : Prop :=
  ∀ (i : Instr) (s t : State), exec i s = .next t →
    (t.sp = s.sp ∧ t.stack = s.stack) ∨ (i = .ret ∧ t.sp + 1 = s.sp ∧ t.stack = s.stack)
      ∨ ((∃ addr, i = .call addr) ∧ t.sp = s.sp + 1)

/-! ## Skips (42_skips.md) -/

/-- skip-eq-imm and skip-ne-imm (R85, R86): `pc + 4` when the comparison holds, `pc + 2` when it does not, nothing else
changes; on the same operands and state exactly one of the two skips. At 0x0FFE either outcome leaves `pc` where the next
fetch fails. -/
def Obligations.SkipsCompareWithImmediates : Prop :=
  ∀ (x : Reg) (imm : Byte) (s : State), ∃ t u,
    exec (.skipEqImm x imm) s = .next t ∧ exec (.skipNeImm x imm) s = .next u
    ∧ (s.reg x = imm → t.pc = s.pc + 4 ∧ u.pc = s.pc + 2) ∧ (s.reg x ≠ imm → t.pc = s.pc + 2 ∧ u.pc = s.pc + 4)
    ∧ t.out = .quiet ∧ u.out = .quiet ∧ Frame [] s t ∧ Frame [] s u
    ∧ (s.pc = 0x0FFE → s.cfg.memorySize ≤ 4096 → (∃ f, fetch t = .error f) ∧ ∃ f, fetch u = .error f)

/-- skip-eq-reg and skip-ne-reg (R87, R88): `pc + 4` or `pc + 2` by the comparison of the two registers, nothing else
changes; with `x = y` the first always skips and the second never; a word of group 5 or 9 whose low nibble is not 0 is
none of them: for group 9 the source says so (0x9001), for group 5 it is the spec's own decision D10 (log 9). -/
def Obligations.SkipsCompareRegisters : Prop :=
  (∀ (x y : Reg) (s : State), ∃ t u,
    exec (.skipEqReg x y) s = .next t ∧ exec (.skipNeReg x y) s = .next u
    ∧ (s.reg x = s.reg y → t.pc = s.pc + 4 ∧ u.pc = s.pc + 2)
    ∧ (s.reg x ≠ s.reg y → t.pc = s.pc + 2 ∧ u.pc = s.pc + 4)
    ∧ (x = y → t.pc = s.pc + 4 ∧ u.pc = s.pc + 2)
    ∧ t.out = .quiet ∧ u.out = .quiet ∧ Frame [] s t ∧ Frame [] s u)
  ∧ ∀ w : Word, (w.toNat / 4096 = 5 ∨ w.toNat / 4096 = 9) → w.toNat % 16 ≠ 0 → decode w = .invalidOpcode w

/-- skip-key-pressed and skip-key-not-pressed (R109, R110): the key is the low four bits of `V[x]` (R113, the spec's decision
D13); `pc + 4` or `pc + 2`; nothing else changes. -/
def Obligations.KeySkipsTestTheSnapshot : Prop :=
  ∀ (x : Reg) (s : State), ∃ t u,
    exec (.skipKeyPressed x) s = .next t ∧ exec (.skipKeyNotPressed x) s = .next u
    ∧ (s.keys.getLsbD ((s.reg x).toNat % 16) = true → t.pc = s.pc + 4 ∧ u.pc = s.pc + 2)
    ∧ (s.keys.getLsbD ((s.reg x).toNat % 16) = false → t.pc = s.pc + 2 ∧ u.pc = s.pc + 4)
    ∧ t.out = .quiet ∧ u.out = .quiet ∧ Frame [] s t ∧ Frame [] s u

/-! ## Loads and moves (43_load_and_move.md) -/

/-- load-imm, move and load-addr (R90, R92, R93): the one register named gets the immediate, the other register's value
(also when it is the same one), or the zero-extended address; `pc + 2`; nothing else changes, the flag register only when
it is the destination. After load-addr `I` is at most 0x0FFF. -/
def Obligations.LoadsAndMovesWriteOneRegister : Prop :=
  (∀ (x : Reg) (imm : Byte) (s : State), ∃ t, exec (.loadImm x imm) s = .next t
    ∧ t.reg x = imm ∧ t.pc = s.pc + 2 ∧ t.out = .quiet ∧ Frame [x] s t)
  ∧ (∀ (x y : Reg) (s : State), ∃ t, exec (.move x y) s = .next t
    ∧ t.reg x = s.reg y ∧ t.pc = s.pc + 2 ∧ t.out = .quiet ∧ Frame [x] s t ∧ (x = y → Frame [] s t))
  ∧ (∀ (addr : BitVec 12) (s : State), ∃ t, exec (.loadAddr addr) s = .next t
    ∧ t.I.toNat = addr.toNat ∧ t.I.toNat ≤ 0x0FFF ∧ t.pc = s.pc + 2 ∧ t.out = .quiet
    ∧ SameRegs [] s t ∧ SameStack s t ∧ SameMemory s t ∧ SameSurroundings s t)

/-- add-imm (R91): `V[x]` gets `(V[x] + imm) mod 256`; the carry is discarded and `V[15]` is not written unless `x = 15`;
`pc + 2`; adding `0x100 - k` subtracts `k`. -/
def Obligations.AddImmWrapsWithoutFlag : Prop :=
  ∀ (x : Reg) (imm : Byte) (s : State), ∃ t, exec (.addImm x imm) s = .next t
    ∧ (t.reg x).toNat = ((s.reg x).toNat + imm.toNat) % 256 ∧ (x ≠ 15 → t.reg 15 = s.reg 15)
    ∧ t.pc = s.pc + 2 ∧ t.out = .quiet ∧ Frame [x] s t ∧ (imm = 0 → Frame [] s t)
    ∧ (∀ k, imm.toNat = 256 - k → k ≤ (s.reg x).toNat → (t.reg x).toNat = (s.reg x).toNat - k)

/-! ## ALU (44_alu_with_flags.md) -/

/-- or, and, xor (R95, R96, R97): bit by bit on the old values, no flag (`V[15]` changes only as the destination), `pc + 2`;
with `x = y` or and and change nothing and xor gives 0. -/
def Obligations.LogicOperationsActBitwise : Prop :=
  ∀ (x y : Reg) (s : State), ∃ t u v,
    exec (.orReg x y) s = .next t ∧ exec (.andReg x y) s = .next u ∧ exec (.xorReg x y) s = .next v
    ∧ (∀ k < 8, (t.reg x).getLsbD k = ((s.reg x).getLsbD k || (s.reg y).getLsbD k))
    ∧ (∀ k < 8, (u.reg x).getLsbD k = ((s.reg x).getLsbD k && (s.reg y).getLsbD k))
    ∧ (∀ k < 8, (v.reg x).getLsbD k = ((s.reg x).getLsbD k != (s.reg y).getLsbD k))
    ∧ (x = y → Frame [] s t ∧ Frame [] s u ∧ v.reg x = 0)
    ∧ t.pc = s.pc + 2 ∧ u.pc = s.pc + 2 ∧ v.pc = s.pc + 2 ∧ t.out = .quiet ∧ u.out = .quiet ∧ v.out = .quiet
    ∧ Frame [x] s t ∧ Frame [x] s u ∧ Frame [x] s v

/-- add-reg (R98): `V[x]` gets the sum modulo 256 and then `V[15]` the carry, 1 exactly when the sum exceeds 255; with
`x = 15` the sum is discarded; `pc + 2`; nothing else changes. -/
def Obligations.AddRegSumAndCarry : Prop :=
  ∀ (x y : Reg) (s : State), ∃ t, exec (.addReg x y) s = .next t
    ∧ (x ≠ 15 → (t.reg x).toNat = ((s.reg x).toNat + (s.reg y).toNat) % 256)
    ∧ (t.reg 15).toNat = (if (s.reg x).toNat + (s.reg y).toNat > 255 then 1 else 0)
    ∧ t.pc = s.pc + 2 ∧ t.out = .quiet ∧ Frame [x, 15] s t

/-- sub-reg (R99): `V[x]` gets `V[x] - V[y]` modulo 256 and then `V[15]` is 1 exactly when `V[x] >= V[y]`; with `x = 15` the
difference is discarded; equal operands give 0 and 1; `pc + 2`; nothing else changes. -/
def Obligations.SubRegDifferenceAndNoBorrow : Prop :=
  ∀ (x y : Reg) (s : State), ∃ t, exec (.subReg x y) s = .next t
    ∧ (x ≠ 15 → ((t.reg x).toNat : Int) = ((s.reg x).toNat - (s.reg y).toNat : Int) % 256)
    ∧ (t.reg 15).toNat = (if (s.reg x).toNat ≥ (s.reg y).toNat then 1 else 0)
    ∧ (x = y → (t.reg 15).toNat = 1 ∧ (x ≠ 15 → t.reg x = 0))
    ∧ t.pc = s.pc + 2 ∧ t.out = .quiet ∧ Frame [x, 15] s t

/-- sub-reg-rev (R101): `V[x]` gets `V[y] - V[x]` modulo 256 and then `V[15]` is 1 exactly when `V[y] >= V[x]`; with `x = 15`
the difference is discarded; `V[y]` is not changed unless `y` is 15 or `x`; `pc + 2`; nothing else changes. -/
def Obligations.SubRegRevDifferenceAndNoBorrow : Prop :=
  ∀ (x y : Reg) (s : State), ∃ t, exec (.subRegRev x y) s = .next t
    ∧ (x ≠ 15 → ((t.reg x).toNat : Int) = ((s.reg y).toNat - (s.reg x).toNat : Int) % 256)
    ∧ (t.reg 15).toNat = (if (s.reg y).toNat ≥ (s.reg x).toNat then 1 else 0)
    ∧ (x = y → (t.reg 15).toNat = 1 ∧ (x ≠ 15 → t.reg x = 0)) ∧ (y ≠ 15 → y ≠ x → t.reg y = s.reg y)
    ∧ t.pc = s.pc + 2 ∧ t.out = .quiet ∧ Frame [x, 15] s t

/-- shift-right and shift-left (R100, R102): `V[15]` gets the bit shifted out, then `V[x]` the value shifted by one, so that
with `x = 15` the shifted value stays (the spec's decision D12); the `y` of the word plays no part (D11); `pc + 2`; nothing
else changes. -/
def Obligations.ShiftsMoveOneBit : Prop :=
  ∀ (x y z : Reg) (s : State), ∃ t u,
    exec (.shiftRight x y) s = .next t ∧ exec (.shiftLeft x y) s = .next u
    ∧ exec (.shiftRight x z) s = .next t ∧ exec (.shiftLeft x z) s = .next u
    ∧ (t.reg x).toNat = (s.reg x).toNat / 2 ∧ (u.reg x).toNat = (2 * (s.reg x).toNat) % 256
    ∧ (x ≠ 15 → (t.reg 15).toNat = (s.reg x).toNat % 2 ∧ (u.reg 15).toNat = (s.reg x).toNat / 128)
    ∧ t.pc = s.pc + 2 ∧ u.pc = s.pc + 2 ∧ t.out = .quiet ∧ u.out = .quiet ∧ Frame [x, 15] s t ∧ Frame [x, 15] s u

/-- The closed form of subtraction (R103): for `x` other than 15 (and any `y`) the difference is `a + NOT b + 1` modulo 256 and the
flag is the carry out of that nine-bit sum; sub-reg-rev is sub-reg with the operands exchanged; and adding the subtrahend
back restores the minuend. -/
def Obligations.SubtractionIsAdditionOfTheComplement : Prop :=
  ∀ (x y : Reg) (s : State), x ≠ 15 → ∃ t u,
    exec (.subReg x y) s = .next t ∧ exec (.subRegRev x y) s = .next u
    ∧ t.reg x = s.reg x + ~~~(s.reg y) + 1 ∧ u.reg x = s.reg y + ~~~(s.reg x) + 1
    ∧ (t.reg 15).toNat = ((s.reg x).toNat + (~~~(s.reg y)).toNat + 1) / 256
    ∧ (u.reg 15).toNat = ((s.reg y).toNat + (~~~(s.reg x)).toNat + 1) / 256
    ∧ t.reg x + s.reg y = s.reg x ∧ t.reg x + u.reg x = 0

/-- Register 15 as an operand of a flag-writing operation: the table of R104, row by row, with `f` the old `V[15]` and `b`
the old `V[y]`, the last column (which other register is written) as the registers that stay. The two shift rows are the
spec's decision D12. -/
def Obligations.Register15AsOperandOfFlagWriters : Prop :=
  ∀ (x y : Reg) (n : Fin 16) (s : State),
    (∀ t, exec (.addReg 15 y) s = .next t →
      (t.reg 15).toNat = (if (s.reg 15).toNat + (s.reg y).toNat > 255 then 1 else 0) ∧ SameRegs [15] s t)
    ∧ (∀ t, x ≠ 15 → exec (.addReg x 15) s = .next t →
      (t.reg 15).toNat = (if (s.reg x).toNat + (s.reg 15).toNat > 255 then 1 else 0)
      ∧ (t.reg x).toNat = ((s.reg x).toNat + (s.reg 15).toNat) % 256 ∧ SameRegs [x, 15] s t)
    ∧ (∀ t, exec (.addReg 15 15) s = .next t →
      (t.reg 15).toNat = (if 2 * (s.reg 15).toNat > 255 then 1 else 0) ∧ SameRegs [15] s t)
    ∧ (∀ t, exec (.subReg 15 y) s = .next t →
      (t.reg 15).toNat = (if (s.reg 15).toNat ≥ (s.reg y).toNat then 1 else 0) ∧ SameRegs [15] s t)
    ∧ (∀ t, x ≠ 15 → exec (.subReg x 15) s = .next t →
      (t.reg 15).toNat = (if (s.reg x).toNat ≥ (s.reg 15).toNat then 1 else 0)
      ∧ ((t.reg x).toNat : Int) = ((s.reg x).toNat - (s.reg 15).toNat : Int) % 256 ∧ SameRegs [x, 15] s t)
    ∧ (∀ t, exec (.subReg 15 15) s = .next t → t.reg 15 = 1 ∧ SameRegs [15] s t)
    ∧ (∀ t, exec (.subRegRev 15 y) s = .next t →
      (t.reg 15).toNat = (if (s.reg y).toNat ≥ (s.reg 15).toNat then 1 else 0) ∧ SameRegs [15] s t)
    ∧ (∀ t, x ≠ 15 → exec (.subRegRev x 15) s = .next t →
      (t.reg 15).toNat = (if (s.reg 15).toNat ≥ (s.reg x).toNat then 1 else 0)
      ∧ ((t.reg x).toNat : Int) = ((s.reg 15).toNat - (s.reg x).toNat : Int) % 256 ∧ SameRegs [x, 15] s t)
    ∧ (∀ t, exec (.subRegRev 15 15) s = .next t → t.reg 15 = 1 ∧ SameRegs [15] s t)
    ∧ (∀ t, exec (.shiftRight 15 y) s = .next t → (t.reg 15).toNat = (s.reg 15).toNat / 2 ∧ SameRegs [15] s t)
    ∧ (∀ t, exec (.shiftLeft 15 y) s = .next t → (t.reg 15).toNat = 2 * (s.reg 15).toNat % 256 ∧ SameRegs [15] s t)
    ∧ (∀ t, exec (.draw 15 y n) s = .next t → (t.reg 15).toNat = (if s.inputs.dispHit then 1 else 0)
      ∧ SameRegs [15] s t ∧ ∃ rows, t.out.dispCmd = .draw (s.reg 15) (s.reg y) rows)
    ∧ (∀ t, exec (.draw x 15 n) s = .next t → (t.reg 15).toNat = (if s.inputs.dispHit then 1 else 0)
      ∧ SameRegs [15] s t ∧ ∃ rows, t.out.dispCmd = .draw (s.reg x) (s.reg 15) rows)

/-! ## Collaborators (45_collaborator_ops.md) -/

/-- clear-display (R106): one clear command, `pc + 2`, nothing else changes, `V[15]` included. -/
def Obligations.ClearDisplaySendsOneCommand : Prop :=
  ∀ s : State, ∃ t, exec .clearDisplay s = .next t
    ∧ t.out = ⟨.clear, false⟩ ∧ t.pc = s.pc + 2 ∧ Frame [] s t

/-- rand-and (R107): `V[x]` is the random byte AND `imm`, `pc + 2`, nothing else changes; whatever the byte is the result has
no bit outside `imm`, and every value with no bit outside `imm` is the result for some byte. -/
def Obligations.RandAndMasksTheRandomByte : Prop :=
  ∀ (x : Reg) (imm : Byte) (s : State),
    (∃ t, exec (.randAnd x imm) s = .next t ∧ t.reg x = (s.inputs.randByte &&& imm) ∧ t.reg x &&& ~~~imm = 0
      ∧ t.pc = s.pc + 2 ∧ t.out = .quiet ∧ Frame [x] s t)
    ∧ ∀ v : Byte, v &&& ~~~imm = 0 →
      ∃ r t, exec (.randAnd x imm) { s with inputs := { s.inputs with randByte := r } } = .next t ∧ t.reg x = v

/-- draw inside memory (R108): the command carries the old `V[x]`, `V[y]` and the `n` bytes from `I` in address order; `V[15]`
is the reply, 1 or 0; `pc + 2`; nothing else changes. With `n = 0` it completes whatever `I` is and sends no rows. The raw
coordinates, and that an empty list is still sent with `n = 0`, are the spec's own decision D17 (log 9). -/
def Obligations.DrawSendsTheSpriteRows : Prop :=
  ∀ (x y : Reg) (n : Fin 16) (s : State), n.val = 0 ∨ s.I.toNat + n.val ≤ s.cfg.memorySize →
    ∃ t rows, exec (.draw x y n) s = .next t ∧ t.out = ⟨.draw (s.reg x) (s.reg y) rows, false⟩
      ∧ rows.length = n.val ∧ (∀ k < n.val, rows[k]? = some (s.mem.byteAt (s.I.toNat + k)))
      ∧ (t.reg 15).toNat = (if s.inputs.dispHit then 1 else 0) ∧ t.pc = s.pc + 2 ∧ Frame [15] s t

/-- draw past the end of memory (R108): with `n > 0` and the last row's address outside memory it fails with that address,
and the step fails in the same way, so nothing is sent and nothing changes. -/
def Obligations.DrawPastMemoryFails : Prop :=
  ∀ (x y : Reg) (n : Fin 16) (s : State), 0 < n.val → s.cfg.memorySize < s.I.toNat + n.val →
    exec (.draw x y n) s = .fault (.addressOutOfBounds (.addr (s.I.toNat + n.val - 1)))
    ∧ (fetch s = .ok (encode (.draw x y n)) →
        step s = .fault (.addressOutOfBounds (.addr (s.I.toNat + n.val - 1))))

/-- load-delay (R111): `V[x]` gets the delay timer, whatever the timer port last left there; `DT` is not changed; `pc + 2`;
nothing else changes; and no instruction at all changes `DT` or `ST`. -/
def Obligations.LoadDelayReadsTheTimer : Prop :=
  (∀ (x : Reg) (s : State), ∃ t, exec (.loadDelay x) s = .next t
    ∧ t.reg x = s.DT ∧ t.DT = s.DT ∧ t.pc = s.pc + 2 ∧ t.out = .quiet ∧ Frame [x] s t)
  ∧ (∀ (x : Reg) (s : State) (dt st : Byte), ∃ t, exec (.loadDelay x) (setTimers dt st s) = .next t ∧ t.reg x = dt)
  ∧ ∀ (i : Instr) (s t : State), exec i s = .next t → t.DT = s.DT ∧ t.ST = s.ST

/-- wait-key (R112): with no key event it completes and nothing changes but the `stalled` mark; with event `k` it writes `k`
zero-extended and advances. The key snapshot plays no part (the spec's decision D15). -/
def Obligations.WaitKeyPollsTheKeyEvent : Prop :=
  ∀ (x : Reg) (s : State),
    (s.inputs.keyEvent = none → exec (.waitKey x) s = .next { s with out := ⟨.none, true⟩ })
    ∧ (∀ k, s.inputs.keyEvent = some k → ∃ t, exec (.waitKey x) s = .next t
      ∧ (t.reg x).toNat = k.toNat ∧ t.pc = s.pc + 2 ∧ t.out = .quiet ∧ Frame [x] s t)
    ∧ ∀ (keys : BitVec 16) (t u : State), exec (.waitKey x) s = .next t → exec (.waitKey x) { s with keys := keys } = .next u
      → u.V = t.V ∧ u.pc = t.pc

/-- Repeated polling (test property S9, R112, R160): at a wait-key, as long as the environment's scheduled moves bring no key
event, any number of steps leaves `V`, `I`, `pc`, the stack and memory as they were. The schedule of moves is the model's
choice (log 1); that the key event is an input apart from `keys` is the spec's own decision D15 (log 9). -/
def Obligations.WaitKeyHoldsUntilAnEvent : Prop :=
  ∀ (k : Nat) (x : Reg) (s : State), fetch s = .ok (encode (.waitKey x)) → s.inputs.keyEvent = none →
    k ≤ s.schedule.length → (∀ m ∈ s.schedule, m.inputs.keyEvent = none) →
    ∃ t, core.run k s = .next t ∧ t.V = s.V ∧ t.I = s.I ∧ t.pc = s.pc ∧ t.sp = s.sp ∧ t.stack = s.stack ∧ t.mem = s.mem
      ∧ t.inputs.keyEvent = none ∧ fetch t = .ok (encode (.waitKey x))

/-! ## Rules about all instructions at once -/

/-- No instruction changes the timers, the key snapshot or any byte of memory, nor the parameters or the record of the
environment (R26 to R29, R35): only the collaborators write them. -/
def Obligations.ExecLeavesSurroundingsAndMemory : Prop :=
  ∀ (i : Instr) (s t : State), exec i s = .next t → SameSurroundings s t ∧ t.mem = s.mem

/-- Memory is constant over a run (20_memory.md R35, R49): after any number of completed steps every byte reads as before, so
every address still holds the word it held. No instruction writes memory (R35); that the environment does not write it after
the first step either is the spec's own decision D25 (log 9), and its moves are the model's choice (log 1). -/
def Obligations.RunsLeaveMemoryConstant : Prop :=
  ∀ (k : Nat) (s t : State), core.run k s = .next t → ∀ a, t.mem.byteAt a = s.mem.byteAt a ∧ wordNumberAt t a = wordNumberAt s a

/-- `I` is written by load-addr alone, with its address (10_state.md R22). -/
def Obligations.OnlyLoadAddrWritesI : Prop :=
  ∀ (i : Instr) (s t : State), exec i s = .next t →
    t.I = s.I ∨ ∃ addr : BitVec 12, i = .loadAddr addr ∧ t.I.toNat = addr.toNat

/-- Every instruction leaves alone the data registers that R15's table does not let it write. -/
def Obligations.RegisterWritesFollowTheTable : Prop :=
  ∀ (i : Instr) (s t : State), exec i s = .next t → ∀ r, r ∉ writeRegs i → t.reg r = s.reg r

/-- What an instruction does depends on no data register that R15's table does not let it read: two states that differ only
in other registers get the same outcome, and each register ends with the same value in both or is left alone in both. In
particular there is no flag input (10_state.md R16). -/
def Obligations.ResultsDependOnlyOnRegistersRead : Prop :=
  ∀ (i : Instr) (s : State) (V' : Vector Byte 16), (∀ r ∈ readRegs i, V'.get r = s.reg r) →
    (∀ f, exec i s = .fault f ↔ exec i { s with V := V' } = .fault f)
    ∧ ∀ t, exec i s = .next t → ∃ u, exec i { s with V := V' } = .next u
      ∧ u.pc = t.pc ∧ u.I = t.I ∧ u.sp = t.sp ∧ u.stack = t.stack ∧ u.out = t.out ∧ u.mem = t.mem ∧ SameSurroundings t u
      ∧ ∀ r, u.reg r = t.reg r ∨ (t.reg r = s.reg r ∧ u.reg r = V'.get r)

/-- The next `pc` of every completed instruction is the entry of R75's table. The key skips' index, `V[x]` modulo 16, is the
spec's own decision D13 (R113), and the unmasked sum of jump-offset its decision D24 (log 9). -/
def Obligations.NextPcFollowsTheTable : Prop :=
  ∀ (i : Instr) (s t : State), exec i s = .next t → t.pc = nextPcOf s i

/-- The flag register changes only as R17 says: it is left alone, or it gets 0 or 1 from a flag-writing operation, or it is
the named destination `V[x]` with `x = 15` (for the two shifts with `x = 15` that is the spec's decision D12). -/
def Obligations.FlagRegisterChangesOnlyAsR17Says : Prop :=
  ∀ (i : Instr) (s t : State), exec i s = .next t →
    t.reg 15 = s.reg 15
    ∨ ((t.reg 15 = 0 ∨ t.reg 15 = 1) ∧ ∃ x y n, i = .addReg x y ∨ i = .subReg x y ∨ i = .subRegRev x y ∨ i = .draw x y n
        ∨ (x ≠ 15 ∧ (i = .shiftRight x y ∨ i = .shiftLeft x y)))
    ∨ ∃ y imm, i = .loadImm 15 imm ∨ i = .addImm 15 imm ∨ i = .move 15 y ∨ i = .orReg 15 y ∨ i = .andReg 15 y
        ∨ i = .xorReg 15 y ∨ i = .randAnd 15 imm ∨ i = .loadDelay 15 ∨ i = .waitKey 15 ∨ i = .shiftRight 15 y
        ∨ i = .shiftLeft 15 y

/-- Only clear-display and draw send a display command, at most one in a step, and only wait-key without a key event is
stalled (50_interfaces.md R115, R118, R123). -/
def Obligations.OutputsOnlyWhereR115Says : Prop :=
  ∀ (i : Instr) (s t : State), exec i s = .next t →
    (t.out.dispCmd = .clear ↔ i = .clearDisplay)
    ∧ ((∃ cx cy rows, t.out.dispCmd = .draw cx cy rows) ↔ ∃ x y n, i = .draw x y n)
    ∧ (t.out.stalled = true ↔ s.inputs.keyEvent = none ∧ ∃ x, i = .waitKey x)

/-- What reads `I`, memory, `DT`, `ST`, `keys`, `sp`, the stack, `pc` and the step inputs (10_state.md R22 to R28, 20_memory.md R35,
40_step_and_dispatch.md R75, 50_interfaces.md R115, R119, R121): only draw reads `I`, memory and the reply bit, only load-delay
reads `DT`, no operation reads `ST`, only the key skips read `keys`, only rand-and takes the random byte, only wait-key the key
event, only call and return read `sp`, only return reads a stack slot, jump, jump-offset and return do not read the old `pc`,
and from it no operation but call makes anything other than the next `pc`. With any other value there the same instruction
completes in the same way; memory is meant here after the fetch. The data registers are the matter of
`ResultsDependOnlyOnRegistersRead`. That the key event is apart from `keys` is the spec's own decision D15 (log 9). -/
def Obligations.EachInputIsReadOnlyByItsOperations : Prop :=
  ∀ (i : Instr) (s t : State), exec i s = .next t →
    ((∀ x y n, i ≠ .draw x y n) →
      (∀ a : Word, ∃ u, exec i { s with I := a } = .next u ∧ u.V = t.V ∧ u.pc = t.pc ∧ u.sp = t.sp ∧ u.stack = t.stack
        ∧ u.out = t.out ∧ u.mem = t.mem)
      ∧ (∀ m : Memory, exec i { s with mem := m } = .next { t with mem := m })
      ∧ ∀ b : Bool, exec i { s with inputs := { s.inputs with dispHit := b } }
          = .next { t with inputs := { t.inputs with dispHit := b } })
    ∧ ((∀ x, i ≠ .loadDelay x) → ∀ v : Byte, exec i { s with DT := v } = .next { t with DT := v })
    ∧ (∀ v : Byte, exec i { s with ST := v } = .next { t with ST := v })
    ∧ ((∀ x, i ≠ .skipKeyPressed x ∧ i ≠ .skipKeyNotPressed x) →
        ∀ k : BitVec 16, exec i { s with keys := k } = .next { t with keys := k })
    ∧ ((∀ x imm, i ≠ .randAnd x imm) → ∀ v : Byte, exec i { s with inputs := { s.inputs with randByte := v } }
        = .next { t with inputs := { t.inputs with randByte := v } })
    ∧ ((∀ x, i ≠ .waitKey x) → ∀ e : Option (BitVec 4), exec i { s with inputs := { s.inputs with keyEvent := e } }
        = .next { t with inputs := { t.inputs with keyEvent := e } })
    ∧ ((∀ addr, i ≠ .call addr) → i ≠ .ret → ∀ n : Nat, exec i { s with sp := n } = .next { t with sp := n })
    ∧ (i ≠ .ret → ∀ k : List Word, ∃ u, exec i { s with stack := k } = .next u ∧ u = { t with stack := u.stack }
        ∧ ((∀ addr, i ≠ .call addr) → u.stack = k))
    ∧ ((∀ addr, i ≠ .call addr) → ∀ p : Word, ∃ u, exec i { s with pc := p } = .next u ∧ u = { t with pc := u.pc }
        ∧ (((∃ addr, i = .jump addr ∨ i = .jumpOffset addr) ∨ i = .ret) → u.pc = t.pc))

/-- Between two steps the environment changes `keys`, `DT`, `ST` and nothing else of CORE: what a completed step leaves is what
the instruction fetched leaves, but for these three and the next step's inputs, which get the values of the environment's next
move: the scheduled one, or the free one when none is scheduled (R125, R126; how moves are held is the model's choice, log 1).
That the environment does not write memory is the spec's own decision D25 (log 9). -/
def Obligations.EnvironmentActsBetweenStepsOnly : Prop :=
  ∀ s u : State, step s = .next u → ∃ (i : Instr) (t : State), fetch s = .ok (encode i) ∧ exec i s = .next t
    ∧ u.V = t.V ∧ u.I = t.I ∧ u.pc = t.pc ∧ u.sp = t.sp ∧ u.stack = t.stack ∧ u.mem = s.mem ∧ u.cfg = s.cfg ∧ u.out = t.out
    ∧ (∀ m rest, s.schedule = m :: rest →
        u.keys = m.keys ∧ u.DT = m.dt ∧ u.ST = m.st ∧ u.inputs = m.inputs ∧ u.schedule = rest)
    ∧ (s.schedule = [] → u.keys = (Config.envMove s.tick).keys ∧ u.DT = (Config.envMove s.tick).dt
        ∧ u.ST = (Config.envMove s.tick).st ∧ u.inputs = (Config.envMove s.tick).inputs)
    ∧ u.tick = s.tick + 1

/-! ## Memory primitives and the loader (20_memory.md, 50_interfaces.md R117) -/

/-- The round trip of R41: a 16-bit value written at a valid address reads back. -/
def Obligations.SixteenBitRoundTrip : Prop :=
  ∀ (s : State) (a : Nat) (v : Word), s.mem.wf = true → a + 1 < s.cfg.memorySize →
    ∃ t, memWrite2 s a v = .ok t ∧ memRead2 t a = .ok v

/-- `MemWrite` (R40): the 1-byte write and the big-endian 2-byte write inside memory put the byte, or the high byte at `a` and
the low byte at `a + 1`, and leave every other byte and all other state; outside memory they fail with the address. -/
def Obligations.MemWritePlacesItsBytes : Prop :=
  ∀ (s : State) (a : Nat), s.mem.wf = true →
    (∀ v : Byte, (a < s.cfg.memorySize → ∃ t, memWrite1 s a v = .ok t ∧ t.mem.byteAt a = v
        ∧ (∀ b, b ≠ a → t.mem.byteAt b = s.mem.byteAt b) ∧ t = { s with mem := t.mem })
      ∧ (s.cfg.memorySize ≤ a → memWrite1 s a v = .error (.addressOutOfBounds (.addr a))))
    ∧ ∀ v : Word, (a + 1 < s.cfg.memorySize → ∃ t, memWrite2 s a v = .ok t
        ∧ (t.mem.byteAt a).toNat = v.toNat / 256 ∧ (t.mem.byteAt (a + 1)).toNat = v.toNat % 256
        ∧ (∀ b, b ≠ a → b ≠ a + 1 → t.mem.byteAt b = s.mem.byteAt b) ∧ t = { s with mem := t.mem })
      ∧ (s.cfg.memorySize ≤ a + 1 → memWrite2 s a v = .error (.addressOutOfBounds (.addr a)))

/-- `MemRead` (R39): one byte, or two bytes with the lower address the more significant; outside memory the read fails with
the address, and a 2-byte read needs two valid bytes. -/
def Obligations.MemReadChecksItsBounds : Prop :=
  ∀ (s : State) (a : Nat),
    (a < s.cfg.memorySize → memRead1 s a = .ok (s.mem.byteAt a))
    ∧ (s.cfg.memorySize ≤ a → memRead1 s a = .error (.addressOutOfBounds (.addr a)))
    ∧ (a + 1 < s.cfg.memorySize → ∃ v, memRead2 s a = .ok v
      ∧ v.toNat = 256 * (s.mem.byteAt a).toNat + (s.mem.byteAt (a + 1)).toNat)
    ∧ (s.cfg.memorySize ≤ a + 1 → memRead2 s a = .error (.addressOutOfBounds (.addr a)))

/-- The program loader (R117): a program that fits stands in memory from `LOAD_ADDRESS` upward, every other byte and all other
state are as before. A program that does not fit is refused whole (the model's choice, log 6). -/
def Obligations.LoaderPlacesTheProgram : Prop :=
  ∀ (bytes : List Byte) (s : State), s.mem.wf = true →
    (s.cfg.loadAddress + bytes.length ≤ s.cfg.memorySize → ∃ t, loadProgram bytes s = .ok t
      ∧ (∀ k < bytes.length, some (t.mem.byteAt (s.cfg.loadAddress + k)) = bytes[k]?)
      ∧ (∀ a, a < s.cfg.loadAddress ∨ s.cfg.loadAddress + bytes.length ≤ a → t.mem.byteAt a = s.mem.byteAt a)
      ∧ t = { s with mem := t.mem })
    ∧ (bytes ≠ [] → s.cfg.memorySize < s.cfg.loadAddress + bytes.length → ∃ f, loadProgram bytes s = .error f)

/-! ## Reset and the invariant (10_state.md, 70_reset_and_hazards.md) -/

/-- What reset leaves (R32): every byte of memory and every register 0, the stack empty with zero slots, the timers 0, `pc` at
the load address, for any legal parameters; the default load address is 0x0200. The zeros of `I`, `DT`, `ST` and the slots
are the spec's decision D14; `keys` and the inputs are whatever drives them. -/
def Obligations.ResetLeavesZeros : Prop :=
  (∀ (p : Params) (keys : BitVec 16) (inputs : StepInputs), p.wellFormed = true →
    (∀ a, (State.resetWith p keys inputs).mem.byteAt a = 0) ∧ (∀ r, (State.resetWith p keys inputs).reg r = 0)
    ∧ (State.resetWith p keys inputs).pc.toNat = p.loadAddress ∧ (State.resetWith p keys inputs).sp = 0
    ∧ (State.resetWith p keys inputs).I = 0 ∧ (State.resetWith p keys inputs).DT = 0
    ∧ (State.resetWith p keys inputs).ST = 0 ∧ (∀ k, (State.resetWith p keys inputs).slot k = 0))
  ∧ ∃ keys inputs, State.reset = State.resetWith Params.default keys inputs ∧ State.reset.pc = 0x0200

/-- With nothing loaded the first step after reset fails with `InvalidOpcode` on the word 0 (R153), for any legal parameters
and whatever drives the inputs. -/
def Obligations.FirstStepOnEmptyMemoryFails : Prop :=
  ∀ (p : Params) (keys : BitVec 16) (inputs : StepInputs), p.wellFormed = true →
    step (State.resetWith p keys inputs) = .fault (.invalidOpcode 0)

/-- The state after reset satisfies the invariant, for any legal parameters and inputs. -/
def Obligations.ResetSatisfiesTheInvariant : Prop :=
  ∀ (p : Params) (keys : BitVec 16) (inputs : StepInputs), p.wellFormed = true → (State.resetWith p keys inputs).Inv

/-- Every step keeps the invariant, and so does the loader: legal parameters, canonical memory inside its size, `I` in 12
bits, the stack within its depth, `pc` at most 0x10FE. -/
def Obligations.StepKeepsTheInvariant : Prop :=
  ∀ s : State, s.Inv → (∀ t, step s = .next t → t.Inv) ∧ ∀ bytes t, loadProgram bytes s = .ok t → t.Inv

/-- `pc` never wraps (R21): a step that completes from a state of the invariant started at most at 0x0FFE, ends at most at
0x10FE, and its additions carried nothing out of 16 bits; and from a `pc` at or past the last byte the next step fails and
leaves it there. -/
def Obligations.PcNeverWraps : Prop :=
  ∀ s : State, s.Inv →
    (∀ t, step s = .next t → s.pc.toNat ≤ 0x0FFE ∧ t.pc.toNat ≤ 0x10FE ∧ (s.pc + 2).toNat = s.pc.toNat + 2
      ∧ (s.pc + 4).toNat = s.pc.toNat + 4)
    ∧ (s.cfg.memorySize - 1 ≤ s.pc.toNat → step s = .fault (.addressOutOfBounds (.addr s.pc.toNat)))
end

