-- ==== Sys2Proof/Laws/Alu.lean ====
section
/-! SUPPORT. The arithmetic of `alu_with_flags` brought down to natural numbers, one lemma per result (44_alu_with_flags.md
R103). -/

namespace Sys2Proof.Machine

@[simp] theorem addResult_toNat (a b : Byte) : (addResult a b).toNat = (a.toNat + b.toNat) % 256 := rfl

@[simp] theorem subResult_toNat (a b : Byte) : (subResult a b).toNat = (a.toNat + 256 - b.toNat) % 256 := rfl

@[simp] theorem shrResult_toNat (a : Byte) : (shrResult a).toNat = a.toNat / 2 := by
  have := a.isLt
  simp only [shrResult, BitVec.toNat_ofNat]
  omega

@[simp] theorem shlResult_toNat (a : Byte) : (shlResult a).toNat = a.toNat * 2 % 256 := rfl

@[simp] theorem flagByte_toNat (b : Bool) : (flagByte b).toNat = if b then 1 else 0 := by cases b <;> rfl

end Sys2Proof.Machine
end

