-- ==== Sys2Proof/Laws/Encode.lean ====
section
/-! SUPPORT. The fields and the packing of an instruction word as arithmetic on its number, and the fields of a packed word
(30_encoding.md R52, R54). -/

namespace Sys2Proof

theorem fieldGroup_toNat (w : Word) : (fieldGroup w).toNat = w.toNat / 4096 := by
  have := w.isLt
  simp only [fieldGroup, BitVec.extractLsb'_toNat, Nat.shiftRight_eq_div_pow]; omega

theorem fieldX_val (w : Word) : (fieldX w).val = w.toNat / 256 % 16 := by
  show (w.extractLsb' 8 4).toNat = _
  simp [BitVec.extractLsb'_toNat, Nat.shiftRight_eq_div_pow]

theorem fieldY_val (w : Word) : (fieldY w).val = w.toNat / 16 % 16 := by
  show (w.extractLsb' 4 4).toNat = _
  simp [BitVec.extractLsb'_toNat, Nat.shiftRight_eq_div_pow]

theorem fieldN_toNat (w : Word) : (fieldN w).toNat = w.toNat % 16 := by simp [fieldN, BitVec.extractLsb'_toNat]

theorem fieldImm_toNat (w : Word) : (fieldImm w).toNat = w.toNat % 256 := by simp [fieldImm, BitVec.extractLsb'_toNat]

theorem fieldAddr_toNat (w : Word) : (fieldAddr w).toNat = w.toNat % 4096 := by simp [fieldAddr, BitVec.extractLsb'_toNat]

theorem wordOfBytes_toNat (hi lo : Byte) : (wordOfBytes hi lo).toNat = 256 * hi.toNat + lo.toNat := by
  have := lo.isLt
  simp only [wordOfBytes, BitVec.toNat_append]
  rw [← Nat.shiftLeft_add_eq_or_of_lt (by omega), Nat.shiftLeft_eq]; omega

theorem highByte_toNat (w : Word) : (highByte w).toNat = w.toNat / 256 := by
  have := w.isLt
  simp only [highByte, BitVec.extractLsb'_toNat, Nat.shiftRight_eq_div_pow]; omega

theorem lowByte_toNat (w : Word) : (lowByte w).toNat = w.toNat % 256 := by simp [lowByte, BitVec.extractLsb'_toNat]

/-- The bytes of a word, put together again. -/
theorem wordOfBytes_bytes (w : Word) : wordOfBytes (highByte w) (lowByte w) = w := by
  apply BitVec.eq_of_toNat_eq
  rw [wordOfBytes_toNat, highByte_toNat, lowByte_toNat]; omega

theorem packA_toNat (g : BitVec 4) (a : BitVec 12) : (packA g a).toNat = 4096 * g.toNat + a.toNat := by
  have := a.isLt
  simp only [packA, BitVec.toNat_append]
  rw [← Nat.shiftLeft_add_eq_or_of_lt (by omega), Nat.shiftLeft_eq]; omega

theorem packXI_toNat (g : BitVec 4) (x : Reg) (imm : Byte) :
    (packXI g x imm).toNat = 4096 * g.toNat + 256 * x.val + imm.toNat := by
  have := imm.isLt
  have := x.isLt
  simp only [packXI, BitVec.toNat_append, BitVec.toNat_ofFin]
  rw [← Nat.shiftLeft_add_eq_or_of_lt (by omega), ← Nat.shiftLeft_add_eq_or_of_lt (by omega)]
  simp only [Nat.shiftLeft_eq]; omega

theorem packXYN_toNat (g : BitVec 4) (x y : Reg) (n : BitVec 4) :
    (packXYN g x y n).toNat = 4096 * g.toNat + 256 * x.val + 16 * y.val + n.toNat := by
  have := n.isLt
  have := x.isLt
  have := y.isLt
  simp only [packXYN, BitVec.toNat_append, BitVec.toNat_ofFin]
  rw [← Nat.shiftLeft_add_eq_or_of_lt (by omega), ← Nat.shiftLeft_add_eq_or_of_lt (by omega),
    ← Nat.shiftLeft_add_eq_or_of_lt (by omega)]
  simp only [Nat.shiftLeft_eq]; omega

/-! ### The fields of a packed word -/

@[simp] theorem fieldGroup_packA (g : BitVec 4) (a : BitVec 12) : fieldGroup (packA g a) = g := by
  have := a.isLt
  apply BitVec.eq_of_toNat_eq; rw [fieldGroup_toNat, packA_toNat]; omega

@[simp] theorem fieldAddr_packA (g : BitVec 4) (a : BitVec 12) : fieldAddr (packA g a) = a := by
  have := a.isLt
  apply BitVec.eq_of_toNat_eq; rw [fieldAddr_toNat, packA_toNat]; omega

@[simp] theorem fieldGroup_packXI (g : BitVec 4) (x : Reg) (imm : Byte) : fieldGroup (packXI g x imm) = g := by
  have := imm.isLt
  apply BitVec.eq_of_toNat_eq; rw [fieldGroup_toNat, packXI_toNat]; omega

@[simp] theorem fieldX_packXI (g : BitVec 4) (x : Reg) (imm : Byte) : fieldX (packXI g x imm) = x := by
  have := imm.isLt
  apply Fin.ext; rw [fieldX_val, packXI_toNat]; omega

@[simp] theorem fieldImm_packXI (g : BitVec 4) (x : Reg) (imm : Byte) : fieldImm (packXI g x imm) = imm := by
  have := imm.isLt
  apply BitVec.eq_of_toNat_eq; rw [fieldImm_toNat, packXI_toNat]; omega

@[simp] theorem fieldGroup_packXYN (g : BitVec 4) (x y : Reg) (n : BitVec 4) : fieldGroup (packXYN g x y n) = g := by
  have := n.isLt
  apply BitVec.eq_of_toNat_eq; rw [fieldGroup_toNat, packXYN_toNat]; omega

@[simp] theorem fieldX_packXYN (g : BitVec 4) (x y : Reg) (n : BitVec 4) : fieldX (packXYN g x y n) = x := by
  have := n.isLt
  apply Fin.ext; rw [fieldX_val, packXYN_toNat]; omega

@[simp] theorem fieldY_packXYN (g : BitVec 4) (x y : Reg) (n : BitVec 4) : fieldY (packXYN g x y n) = y := by
  have := n.isLt
  apply Fin.ext; rw [fieldY_val, packXYN_toNat]; omega

@[simp] theorem fieldN_packXYN (g : BitVec 4) (x y : Reg) (n : BitVec 4) : fieldN (packXYN g x y n) = n := by
  have := n.isLt
  apply BitVec.eq_of_toNat_eq; rw [fieldN_toNat, packXYN_toNat]; omega

end Sys2Proof
end

