-- ==== Sys2Proof/Laws/Memory.lean ====
section
/-! SUPPORT. The laws of memory: what a byte reads as after a store, and that every memory operation keeps the canonical
form. -/

namespace Sys2Proof.Machine

@[simp] theorem byteAt_nil (a : Nat) : Memory.byteAt [] a = Memory.unlisted := rfl

theorem byteAt_cons (b : Nat) (u : Byte) (m : Memory) (a : Nat) :
    Memory.byteAt ((b, u) :: m) a = if a = b then u else Memory.byteAt m a := rfl

/-- Below the first address of a canonical memory nothing is listed. -/
theorem byteAt_below {lo : Nat} {m : Memory} (h : Memory.wfFrom lo m = true) {a : Nat} (ha : a < lo) :
    Memory.byteAt m a = Memory.unlisted := by
  induction m generalizing lo with
  | nil => rfl
  | cons c m ih =>
    obtain ⟨b, u⟩ := c
    simp only [Memory.wfFrom, Bool.and_eq_true, decide_eq_true_eq] at h
    rw [byteAt_cons, if_neg (by omega), ih h.2 (by omega)]

/-- A canonical memory is canonical from any lower address. -/
theorem wfFrom_mono {lo hi : Nat} {m : Memory} (h : Memory.wfFrom hi m = true) (hle : lo ≤ hi) :
    Memory.wfFrom lo m = true := by
  cases m with
  | nil => rfl
  | cons c m =>
    obtain ⟨b, u⟩ := c
    simp only [Memory.wfFrom, Bool.and_eq_true, decide_eq_true_eq] at h ⊢
    exact ⟨⟨by omega, h.1.2⟩, h.2⟩

/-- Putting a byte in front of what is listed above it keeps the canonical form. -/
theorem wfFrom_consByte {lo a : Nat} {m : Memory} (v : Byte) (h : Memory.wfFrom (a + 1) m = true) (hle : lo ≤ a) :
    Memory.wfFrom lo (Memory.cons a v m) = true := by
  unfold Memory.cons
  split
  · exact wfFrom_mono h (by omega)
  · next hv => simp [Memory.wfFrom, hle, hv, h]

/-- Every store keeps the canonical form. -/
theorem wfFrom_setByte {lo : Nat} {m : Memory} (h : Memory.wfFrom lo m = true) {a : Nat} (v : Byte) (hle : lo ≤ a) :
    Memory.wfFrom lo (m.setByte a v) = true := by
  induction m generalizing lo with
  | nil => exact wfFrom_consByte v rfl hle
  | cons c m ih =>
    obtain ⟨b, u⟩ := c
    have hb := h
    simp only [Memory.wfFrom, Bool.and_eq_true, decide_eq_true_eq] at h
    unfold Memory.setByte
    split
    · next hab =>
      refine wfFrom_consByte v ?_ hle
      simp only [Memory.wfFrom, Bool.and_eq_true, decide_eq_true_eq]
      exact ⟨⟨by omega, h.1.2⟩, h.2⟩
    · split
      · next hab => subst hab; exact wfFrom_consByte v h.2 hle
      · simp only [Memory.wfFrom, Bool.and_eq_true, decide_eq_true_eq]
        exact ⟨h.1, ih h.2 (by omega)⟩

theorem wf_setByte {m : Memory} (h : m.wf = true) (a : Nat) (v : Byte) : (m.setByte a v).wf = true :=
  wfFrom_setByte h v (Nat.zero_le a)

/-- Reading a byte after `Memory.cons`. -/
theorem byteAt_consByte {a : Nat} {m : Memory} (v : Byte) (h : Memory.wfFrom (a + 1) m = true) (q : Nat) :
    Memory.byteAt (Memory.cons a v m) q = if q = a then v else Memory.byteAt m q := by
  unfold Memory.cons
  split
  · next hv =>
    split
    · next hq => rw [hv, byteAt_below h (by omega)]
    · rfl
  · rfl

/-- Read after write: the byte stored at `a`, every other byte as before. -/
theorem byteAt_setByte {m : Memory} (h : m.wf = true) (a : Nat) (v : Byte) (q : Nat) :
    (m.setByte a v).byteAt q = if q = a then v else m.byteAt q := by
  suffices H : ∀ lo, Memory.wfFrom lo m = true → (m.setByte a v).byteAt q = if q = a then v else m.byteAt q from H 0 h
  clear h
  induction m with
  | nil => intro lo _; exact byteAt_consByte v rfl q
  | cons c m ih =>
    obtain ⟨b, u⟩ := c
    intro lo h
    simp only [Memory.wfFrom, Bool.and_eq_true, decide_eq_true_eq] at h
    unfold Memory.setByte
    split
    · next hab =>
      exact byteAt_consByte v
        (by simp only [Memory.wfFrom, Bool.and_eq_true, decide_eq_true_eq]; exact ⟨⟨by omega, h.1.2⟩, h.2⟩) q
    · split
      · next hab =>
        subst hab
        rw [byteAt_consByte v h.2, byteAt_cons]
        split <;> rfl
      · next hne hne' =>
        rw [byteAt_cons, byteAt_cons, ih _ h.2]
        split
        · next hq => rw [if_neg (by omega)]
        · rfl

/-- A store inside the size keeps every listed address inside it. -/
theorem within_setByte {size : Nat} {m : Memory} (h : Memory.within size m = true) {a : Nat} (v : Byte) (ha : a < size) :
    Memory.within size (m.setByte a v) = true := by
  have hc : ∀ m' : Memory, Memory.within size m' = true → Memory.within size (Memory.cons a v m') = true := by
    intro m' hm
    unfold Memory.cons
    split
    · exact hm
    · simpa [Memory.within, ha] using hm
  induction m with
  | nil => exact hc [] rfl
  | cons c m ih =>
    obtain ⟨b, u⟩ := c
    have h' : b < size ∧ Memory.within size m = true := by simpa [Memory.within] using h
    unfold Memory.setByte
    split
    · exact hc _ h
    · split
      · exact hc _ h'.2
      · simpa [Memory.within, h'.1] using ih h'.2

/-- Memory after reset has the canonical form. -/
theorem wf_reset : State.reset.mem.wf = true := rfl

/-- What a completed 1-byte write is (20_memory.md R40). -/
theorem memWrite1_ok {s t : State} {a : Nat} {v : Byte} :
    memWrite1 s a v = .ok t ↔ a < s.cfg.memorySize ∧ t = { s with mem := s.mem.setByte a v } := by
  unfold memWrite1
  split
  · next h => constructor
              · intro h'; cases h'
              · rintro ⟨h', -⟩; omega
  · next h => simp only [Except.ok.injEq]; exact ⟨fun e => ⟨by omega, e.symm⟩, fun e => e.2.symm⟩

/-- What a completed 2-byte write is (20_memory.md R40). -/
theorem memWrite2_ok {s t : State} {a : Nat} {v : Word} :
    memWrite2 s a v = .ok t ↔ a + 1 < s.cfg.memorySize ∧
      t = { s with mem := (s.mem.setByte a (highByte v)).setByte (a + 1) (lowByte v) } := by
  unfold memWrite2
  split
  · next h => constructor
              · intro h'; cases h'
              · rintro ⟨h', -⟩; omega
  · next h => simp only [Except.ok.injEq]; exact ⟨fun e => ⟨by omega, e.symm⟩, fun e => e.2.symm⟩

/-- The 1-byte write keeps memory canonical and inside its size. -/
theorem memWrite1_keeps_form {s t : State} {a : Nat} {v : Byte} (h : memWrite1 s a v = .ok t)
    (hw : s.mem.wf = true) (hi : s.mem.within s.cfg.memorySize = true) :
    t.mem.wf = true ∧ t.mem.within t.cfg.memorySize = true := by
  obtain ⟨ha, rfl⟩ := memWrite1_ok.mp h
  exact ⟨wf_setByte hw a v, within_setByte hi v ha⟩

/-- The 2-byte write keeps memory canonical and inside its size. -/
theorem memWrite2_keeps_form {s t : State} {a : Nat} {v : Word} (h : memWrite2 s a v = .ok t)
    (hw : s.mem.wf = true) (hi : s.mem.within s.cfg.memorySize = true) :
    t.mem.wf = true ∧ t.mem.within t.cfg.memorySize = true := by
  obtain ⟨ha, rfl⟩ := memWrite2_ok.mp h
  exact ⟨wf_setByte (wf_setByte hw _ _) _ _, within_setByte (within_setByte hi _ (by omega)) _ ha⟩

/-- Loading bytes keeps memory canonical and inside its size. -/
theorem loadBytesAt_keeps_form {bytes : List Byte} {s t : State} {a : Nat} (h : loadBytesAt s a bytes = .ok t)
    (hw : s.mem.wf = true) (hi : s.mem.within s.cfg.memorySize = true) :
    t.mem.wf = true ∧ t.mem.within t.cfg.memorySize = true := by
  induction bytes generalizing s a with
  | nil => cases h; exact ⟨hw, hi⟩
  | cons b bs ih =>
    simp only [loadBytesAt] at h
    split at h
    · cases h
    · next u hu =>
      have hk := memWrite1_keeps_form hu hw hi
      exact ih h hk.1 hk.2

end Sys2Proof.Machine
end

