-- ==== Sys2Proof/Laws/State.lean ====
section
/-! SUPPORT. One lemma per field per named update of State, so that no later proof unfolds a record update. -/

namespace Sys2Proof.Machine

/-! ### State.setReg -/

@[simp] theorem State.setReg_V (s : State) (r : Reg) (v : Byte) : (s.setReg r v).V = s.V.set r v := rfl
@[simp] theorem State.setReg_I (s : State) (r : Reg) (v : Byte) : (s.setReg r v).I = s.I := rfl
@[simp] theorem State.setReg_pc (s : State) (r : Reg) (v : Byte) : (s.setReg r v).pc = s.pc := rfl
@[simp] theorem State.setReg_sp (s : State) (r : Reg) (v : Byte) : (s.setReg r v).sp = s.sp := rfl
@[simp] theorem State.setReg_stack (s : State) (r : Reg) (v : Byte) : (s.setReg r v).stack = s.stack := rfl
@[simp] theorem State.setReg_DT (s : State) (r : Reg) (v : Byte) : (s.setReg r v).DT = s.DT := rfl
@[simp] theorem State.setReg_ST (s : State) (r : Reg) (v : Byte) : (s.setReg r v).ST = s.ST := rfl
@[simp] theorem State.setReg_keys (s : State) (r : Reg) (v : Byte) : (s.setReg r v).keys = s.keys := rfl
@[simp] theorem State.setReg_mem (s : State) (r : Reg) (v : Byte) : (s.setReg r v).mem = s.mem := rfl
@[simp] theorem State.setReg_cfg (s : State) (r : Reg) (v : Byte) : (s.setReg r v).cfg = s.cfg := rfl
@[simp] theorem State.setReg_inputs (s : State) (r : Reg) (v : Byte) : (s.setReg r v).inputs = s.inputs := rfl
@[simp] theorem State.setReg_out (s : State) (r : Reg) (v : Byte) : (s.setReg r v).out = s.out := rfl
@[simp] theorem State.setReg_schedule (s : State) (r : Reg) (v : Byte) : (s.setReg r v).schedule = s.schedule := rfl
@[simp] theorem State.setReg_tick (s : State) (r : Reg) (v : Byte) : (s.setReg r v).tick = s.tick := rfl

/-! ### State.setI -/

@[simp] theorem State.setI_V (s : State) (a : Word) : (s.setI a).V = s.V := rfl
@[simp] theorem State.setI_I (s : State) (a : Word) : (s.setI a).I = a := rfl
@[simp] theorem State.setI_pc (s : State) (a : Word) : (s.setI a).pc = s.pc := rfl
@[simp] theorem State.setI_sp (s : State) (a : Word) : (s.setI a).sp = s.sp := rfl
@[simp] theorem State.setI_stack (s : State) (a : Word) : (s.setI a).stack = s.stack := rfl
@[simp] theorem State.setI_DT (s : State) (a : Word) : (s.setI a).DT = s.DT := rfl
@[simp] theorem State.setI_ST (s : State) (a : Word) : (s.setI a).ST = s.ST := rfl
@[simp] theorem State.setI_keys (s : State) (a : Word) : (s.setI a).keys = s.keys := rfl
@[simp] theorem State.setI_mem (s : State) (a : Word) : (s.setI a).mem = s.mem := rfl
@[simp] theorem State.setI_cfg (s : State) (a : Word) : (s.setI a).cfg = s.cfg := rfl
@[simp] theorem State.setI_inputs (s : State) (a : Word) : (s.setI a).inputs = s.inputs := rfl
@[simp] theorem State.setI_out (s : State) (a : Word) : (s.setI a).out = s.out := rfl
@[simp] theorem State.setI_schedule (s : State) (a : Word) : (s.setI a).schedule = s.schedule := rfl
@[simp] theorem State.setI_tick (s : State) (a : Word) : (s.setI a).tick = s.tick := rfl

/-! ### State.goto -/

@[simp] theorem State.goto_V (s : State) (target : Word) : (s.goto target).V = s.V := rfl
@[simp] theorem State.goto_I (s : State) (target : Word) : (s.goto target).I = s.I := rfl
@[simp] theorem State.goto_pc (s : State) (target : Word) : (s.goto target).pc = target := rfl
@[simp] theorem State.goto_sp (s : State) (target : Word) : (s.goto target).sp = s.sp := rfl
@[simp] theorem State.goto_stack (s : State) (target : Word) : (s.goto target).stack = s.stack := rfl
@[simp] theorem State.goto_DT (s : State) (target : Word) : (s.goto target).DT = s.DT := rfl
@[simp] theorem State.goto_ST (s : State) (target : Word) : (s.goto target).ST = s.ST := rfl
@[simp] theorem State.goto_keys (s : State) (target : Word) : (s.goto target).keys = s.keys := rfl
@[simp] theorem State.goto_mem (s : State) (target : Word) : (s.goto target).mem = s.mem := rfl
@[simp] theorem State.goto_cfg (s : State) (target : Word) : (s.goto target).cfg = s.cfg := rfl
@[simp] theorem State.goto_inputs (s : State) (target : Word) : (s.goto target).inputs = s.inputs := rfl
@[simp] theorem State.goto_out (s : State) (target : Word) : (s.goto target).out = .quiet := rfl
@[simp] theorem State.goto_schedule (s : State) (target : Word) : (s.goto target).schedule = s.schedule := rfl
@[simp] theorem State.goto_tick (s : State) (target : Word) : (s.goto target).tick = s.tick := rfl

/-! ### State.advance -/

@[simp] theorem State.advance_V (s : State) : s.advance.V = s.V := rfl
@[simp] theorem State.advance_I (s : State) : s.advance.I = s.I := rfl
@[simp] theorem State.advance_pc (s : State) : s.advance.pc = s.pc + 2 := rfl
@[simp] theorem State.advance_sp (s : State) : s.advance.sp = s.sp := rfl
@[simp] theorem State.advance_stack (s : State) : s.advance.stack = s.stack := rfl
@[simp] theorem State.advance_DT (s : State) : s.advance.DT = s.DT := rfl
@[simp] theorem State.advance_ST (s : State) : s.advance.ST = s.ST := rfl
@[simp] theorem State.advance_keys (s : State) : s.advance.keys = s.keys := rfl
@[simp] theorem State.advance_mem (s : State) : s.advance.mem = s.mem := rfl
@[simp] theorem State.advance_cfg (s : State) : s.advance.cfg = s.cfg := rfl
@[simp] theorem State.advance_inputs (s : State) : s.advance.inputs = s.inputs := rfl
@[simp] theorem State.advance_out (s : State) : s.advance.out = .quiet := rfl
@[simp] theorem State.advance_schedule (s : State) : s.advance.schedule = s.schedule := rfl
@[simp] theorem State.advance_tick (s : State) : s.advance.tick = s.tick := rfl

/-! ### State.skipIf -/

@[simp] theorem State.skipIf_V (s : State) (c : Bool) : (s.skipIf c).V = s.V := rfl
@[simp] theorem State.skipIf_I (s : State) (c : Bool) : (s.skipIf c).I = s.I := rfl
@[simp] theorem State.skipIf_pc (s : State) (c : Bool) : (s.skipIf c).pc = if c then s.pc + 4 else s.pc + 2 := rfl
@[simp] theorem State.skipIf_sp (s : State) (c : Bool) : (s.skipIf c).sp = s.sp := rfl
@[simp] theorem State.skipIf_stack (s : State) (c : Bool) : (s.skipIf c).stack = s.stack := rfl
@[simp] theorem State.skipIf_DT (s : State) (c : Bool) : (s.skipIf c).DT = s.DT := rfl
@[simp] theorem State.skipIf_ST (s : State) (c : Bool) : (s.skipIf c).ST = s.ST := rfl
@[simp] theorem State.skipIf_keys (s : State) (c : Bool) : (s.skipIf c).keys = s.keys := rfl
@[simp] theorem State.skipIf_mem (s : State) (c : Bool) : (s.skipIf c).mem = s.mem := rfl
@[simp] theorem State.skipIf_cfg (s : State) (c : Bool) : (s.skipIf c).cfg = s.cfg := rfl
@[simp] theorem State.skipIf_inputs (s : State) (c : Bool) : (s.skipIf c).inputs = s.inputs := rfl
@[simp] theorem State.skipIf_out (s : State) (c : Bool) : (s.skipIf c).out = .quiet := rfl
@[simp] theorem State.skipIf_schedule (s : State) (c : Bool) : (s.skipIf c).schedule = s.schedule := rfl
@[simp] theorem State.skipIf_tick (s : State) (c : Bool) : (s.skipIf c).tick = s.tick := rfl

/-! ### State.send -/

@[simp] theorem State.send_V (s : State) (c : DispCmd) : (s.send c).V = s.V := rfl
@[simp] theorem State.send_I (s : State) (c : DispCmd) : (s.send c).I = s.I := rfl
@[simp] theorem State.send_pc (s : State) (c : DispCmd) : (s.send c).pc = s.pc := rfl
@[simp] theorem State.send_sp (s : State) (c : DispCmd) : (s.send c).sp = s.sp := rfl
@[simp] theorem State.send_stack (s : State) (c : DispCmd) : (s.send c).stack = s.stack := rfl
@[simp] theorem State.send_DT (s : State) (c : DispCmd) : (s.send c).DT = s.DT := rfl
@[simp] theorem State.send_ST (s : State) (c : DispCmd) : (s.send c).ST = s.ST := rfl
@[simp] theorem State.send_keys (s : State) (c : DispCmd) : (s.send c).keys = s.keys := rfl
@[simp] theorem State.send_mem (s : State) (c : DispCmd) : (s.send c).mem = s.mem := rfl
@[simp] theorem State.send_cfg (s : State) (c : DispCmd) : (s.send c).cfg = s.cfg := rfl
@[simp] theorem State.send_inputs (s : State) (c : DispCmd) : (s.send c).inputs = s.inputs := rfl
@[simp] theorem State.send_out (s : State) (c : DispCmd) : (s.send c).out = ⟨c, false⟩ := rfl
@[simp] theorem State.send_schedule (s : State) (c : DispCmd) : (s.send c).schedule = s.schedule := rfl
@[simp] theorem State.send_tick (s : State) (c : DispCmd) : (s.send c).tick = s.tick := rfl

/-! ### State.stall -/

@[simp] theorem State.stall_V (s : State) : s.stall.V = s.V := rfl
@[simp] theorem State.stall_I (s : State) : s.stall.I = s.I := rfl
@[simp] theorem State.stall_pc (s : State) : s.stall.pc = s.pc := rfl
@[simp] theorem State.stall_sp (s : State) : s.stall.sp = s.sp := rfl
@[simp] theorem State.stall_stack (s : State) : s.stall.stack = s.stack := rfl
@[simp] theorem State.stall_DT (s : State) : s.stall.DT = s.DT := rfl
@[simp] theorem State.stall_ST (s : State) : s.stall.ST = s.ST := rfl
@[simp] theorem State.stall_keys (s : State) : s.stall.keys = s.keys := rfl
@[simp] theorem State.stall_mem (s : State) : s.stall.mem = s.mem := rfl
@[simp] theorem State.stall_cfg (s : State) : s.stall.cfg = s.cfg := rfl
@[simp] theorem State.stall_inputs (s : State) : s.stall.inputs = s.inputs := rfl
@[simp] theorem State.stall_out (s : State) : s.stall.out = ⟨.none, true⟩ := rfl
@[simp] theorem State.stall_schedule (s : State) : s.stall.schedule = s.schedule := rfl
@[simp] theorem State.stall_tick (s : State) : s.stall.tick = s.tick := rfl

/-! ### State.setFlag -/

@[simp] theorem State.setFlag_V (s : State) (b : Bool) : (s.setFlag b).V = s.V.set 15 (flagByte b) := rfl
@[simp] theorem State.setFlag_I (s : State) (b : Bool) : (s.setFlag b).I = s.I := rfl
@[simp] theorem State.setFlag_pc (s : State) (b : Bool) : (s.setFlag b).pc = s.pc := rfl
@[simp] theorem State.setFlag_sp (s : State) (b : Bool) : (s.setFlag b).sp = s.sp := rfl
@[simp] theorem State.setFlag_stack (s : State) (b : Bool) : (s.setFlag b).stack = s.stack := rfl
@[simp] theorem State.setFlag_DT (s : State) (b : Bool) : (s.setFlag b).DT = s.DT := rfl
@[simp] theorem State.setFlag_ST (s : State) (b : Bool) : (s.setFlag b).ST = s.ST := rfl
@[simp] theorem State.setFlag_keys (s : State) (b : Bool) : (s.setFlag b).keys = s.keys := rfl
@[simp] theorem State.setFlag_mem (s : State) (b : Bool) : (s.setFlag b).mem = s.mem := rfl
@[simp] theorem State.setFlag_cfg (s : State) (b : Bool) : (s.setFlag b).cfg = s.cfg := rfl
@[simp] theorem State.setFlag_inputs (s : State) (b : Bool) : (s.setFlag b).inputs = s.inputs := rfl
@[simp] theorem State.setFlag_out (s : State) (b : Bool) : (s.setFlag b).out = s.out := rfl
@[simp] theorem State.setFlag_schedule (s : State) (b : Bool) : (s.setFlag b).schedule = s.schedule := rfl
@[simp] theorem State.setFlag_tick (s : State) (b : Bool) : (s.setFlag b).tick = s.tick := rfl

/-! ### betweenSteps -/

@[simp] theorem betweenSteps_V (s : State) : (betweenSteps s).V = s.V := rfl
@[simp] theorem betweenSteps_I (s : State) : (betweenSteps s).I = s.I := rfl
@[simp] theorem betweenSteps_pc (s : State) : (betweenSteps s).pc = s.pc := rfl
@[simp] theorem betweenSteps_sp (s : State) : (betweenSteps s).sp = s.sp := rfl
@[simp] theorem betweenSteps_stack (s : State) : (betweenSteps s).stack = s.stack := rfl
@[simp] theorem betweenSteps_DT (s : State) : (betweenSteps s).DT = (nextMove s).dt := rfl
@[simp] theorem betweenSteps_ST (s : State) : (betweenSteps s).ST = (nextMove s).st := rfl
@[simp] theorem betweenSteps_keys (s : State) : (betweenSteps s).keys = (nextMove s).keys := rfl
@[simp] theorem betweenSteps_mem (s : State) : (betweenSteps s).mem = s.mem := rfl
@[simp] theorem betweenSteps_cfg (s : State) : (betweenSteps s).cfg = s.cfg := rfl
@[simp] theorem betweenSteps_inputs (s : State) : (betweenSteps s).inputs = (nextMove s).inputs := rfl
@[simp] theorem betweenSteps_out (s : State) : (betweenSteps s).out = s.out := rfl
@[simp] theorem betweenSteps_schedule (s : State) : (betweenSteps s).schedule = s.schedule.tail := rfl
@[simp] theorem betweenSteps_tick (s : State) : (betweenSteps s).tick = s.tick + 1 := rfl

/-! ### applyMove -/

@[simp] theorem applyMove_V (m : EnvMove) (s : State) : (applyMove m s).V = s.V := rfl
@[simp] theorem applyMove_I (m : EnvMove) (s : State) : (applyMove m s).I = s.I := rfl
@[simp] theorem applyMove_pc (m : EnvMove) (s : State) : (applyMove m s).pc = s.pc := rfl
@[simp] theorem applyMove_sp (m : EnvMove) (s : State) : (applyMove m s).sp = s.sp := rfl
@[simp] theorem applyMove_stack (m : EnvMove) (s : State) : (applyMove m s).stack = s.stack := rfl
@[simp] theorem applyMove_DT (m : EnvMove) (s : State) : (applyMove m s).DT = m.dt := rfl
@[simp] theorem applyMove_ST (m : EnvMove) (s : State) : (applyMove m s).ST = m.st := rfl
@[simp] theorem applyMove_keys (m : EnvMove) (s : State) : (applyMove m s).keys = m.keys := rfl
@[simp] theorem applyMove_mem (m : EnvMove) (s : State) : (applyMove m s).mem = s.mem := rfl
@[simp] theorem applyMove_cfg (m : EnvMove) (s : State) : (applyMove m s).cfg = s.cfg := rfl
@[simp] theorem applyMove_inputs (m : EnvMove) (s : State) : (applyMove m s).inputs = m.inputs := rfl
@[simp] theorem applyMove_out (m : EnvMove) (s : State) : (applyMove m s).out = s.out := rfl
@[simp] theorem applyMove_schedule (m : EnvMove) (s : State) : (applyMove m s).schedule = s.schedule := rfl
@[simp] theorem applyMove_tick (m : EnvMove) (s : State) : (applyMove m s).tick = s.tick := rfl

/-! ### Registers, slots and selections -/

@[simp] theorem reg_setReg_same (s : State) (r : Reg) (v : Byte) : (s.setReg r v).reg r = v := by
  simp [State.reg, State.setReg, Vector.get_eq_getElem]

theorem reg_setReg_ne (s : State) {r q : Reg} (v : Byte) (h : q ≠ r) : (s.setReg r v).reg q = s.reg q := by
  have h' : r.val ≠ q.val := fun e => h (Fin.ext e.symm)
  simp [State.reg, State.setReg, Vector.get_eq_getElem, Vector.getElem_set_ne, h']

/-- Reading any register after a write to one. -/
theorem reg_setReg (s : State) (r q : Reg) (v : Byte) : (s.setReg r v).reg q = if q = r then v else s.reg q := by
  split
  · next h => subst h; simp
  · next h => exact reg_setReg_ne s v h

theorem reg_setFlag (s : State) (q : Reg) (b : Bool) :
    (s.setFlag b).reg q = if q = 15 then flagByte b else s.reg q := reg_setReg s 15 q _

@[simp] theorem reg_setI (s : State) (a : Word) (q : Reg) : (s.setI a).reg q = s.reg q := rfl
@[simp] theorem reg_goto (s : State) (a : Word) (q : Reg) : (s.goto a).reg q = s.reg q := rfl
@[simp] theorem reg_advance (s : State) (q : Reg) : s.advance.reg q = s.reg q := rfl
@[simp] theorem reg_skipIf (s : State) (c : Bool) (q : Reg) : (s.skipIf c).reg q = s.reg q := rfl
@[simp] theorem reg_send (s : State) (c : DispCmd) (q : Reg) : (s.send c).reg q = s.reg q := rfl
@[simp] theorem reg_stall (s : State) (q : Reg) : s.stall.reg q = s.reg q := rfl
@[simp] theorem reg_betweenSteps (s : State) (q : Reg) : (betweenSteps s).reg q = s.reg q := rfl
@[simp] theorem reg_applyMove (m : EnvMove) (s : State) (q : Reg) : (applyMove m s).reg q = s.reg q := rfl

@[simp] theorem slot_setReg (s : State) (r : Reg) (v : Byte) (k : Nat) : (s.setReg r v).slot k = s.slot k := rfl
@[simp] theorem slot_setFlag (s : State) (b : Bool) (k : Nat) : (s.setFlag b).slot k = s.slot k := rfl
@[simp] theorem slot_setI (s : State) (a : Word) (k : Nat) : (s.setI a).slot k = s.slot k := rfl
@[simp] theorem slot_goto (s : State) (a : Word) (k : Nat) : (s.goto a).slot k = s.slot k := rfl
@[simp] theorem slot_advance (s : State) (k : Nat) : s.advance.slot k = s.slot k := rfl
@[simp] theorem slot_skipIf (s : State) (c : Bool) (k : Nat) : (s.skipIf c).slot k = s.slot k := rfl
@[simp] theorem slot_send (s : State) (c : DispCmd) (k : Nat) : (s.send c).slot k = s.slot k := rfl
@[simp] theorem slot_stall (s : State) (k : Nat) : s.stall.slot k = s.slot k := rfl
@[simp] theorem slot_betweenSteps (s : State) (k : Nat) : (betweenSteps s).slot k = s.slot k := rfl
@[simp] theorem slot_applyMove (m : EnvMove) (s : State) (k : Nat) : (applyMove m s).slot k = s.slot k := rfl

@[simp] theorem reg_resetWith (p : Params) (keys : BitVec 16) (inputs : StepInputs) (q : Reg) :
    (State.resetWith p keys inputs).reg q = 0 := by
  show (Vector.replicate 16 (0 : Byte)).get q = 0
  simp [Vector.get_eq_getElem]

end Sys2Proof.Machine
end

