-- ==== Sys2Proof/Laws/Ops.lean ====
section
/-! SUPPORT. One lemma for each shared operation that can fail, saying everything it can do; the proofs cite these instead
of unfolding the operation. -/

namespace Sys2Proof.Machine

/-- Fetch answers the word at `pc` inside memory and fails outside it (40_step_and_dispatch.md R68, R69). -/
theorem fetch_eq (s : State) :
    fetch s = if s.cfg.memorySize ≤ s.pc.toNat + 1 then .error (.addressOutOfBounds (.addr s.pc.toNat))
      else .ok (wordOfBytes (s.mem.byteAt s.pc.toNat) (s.mem.byteAt (s.pc.toNat + 1))) := rfl

theorem fetch_ok_iff {s : State} {w : Word} : fetch s = .ok w ↔ s.pc.toNat + 1 < s.cfg.memorySize ∧
    wordOfBytes (s.mem.byteAt s.pc.toNat) (s.mem.byteAt (s.pc.toNat + 1)) = w := by
  rw [fetch_eq]
  split
  · next h => constructor
              · intro h'; cases h'
              · rintro ⟨h', -⟩; omega
  · next h => simp only [Except.ok.injEq]; exact ⟨fun e => ⟨by omega, e⟩, fun e => e.2⟩

/-- Fetch looks at the parameters, memory and `pc` only. -/
theorem fetch_congr {s t : State} (hc : t.cfg = s.cfg) (hm : t.mem = s.mem) (hp : t.pc = s.pc) : fetch t = fetch s := by
  rw [fetch_eq, fetch_eq, hc, hm, hp]

/-- Everything push can do (10_state.md R24). -/
theorem push_cases (s : State) (v : Word) :
    (s.cfg.stackDepth ≤ s.sp ∧ push s v = .error (.addressOutOfBounds .stack)) ∨
    (s.sp < s.cfg.stackDepth ∧ push s v = .ok { s with stack := s.stack.set s.sp v, sp := s.sp + 1 }) := by
  unfold push
  by_cases h : s.cfg.stackDepth ≤ s.sp
  · exact .inl ⟨h, if_pos h⟩
  · exact .inr ⟨by omega, if_neg h⟩

/-- Everything pop can do (10_state.md R24). -/
theorem pop_cases (s : State) :
    (s.sp = 0 ∧ pop s = .error (.addressOutOfBounds .stack)) ∨
    (0 < s.sp ∧ pop s = .ok (s.slot s.sp, { s with sp := s.sp - 1 })) := by
  unfold pop
  by_cases h : s.sp = 0
  · exact .inl ⟨h, if_pos h⟩
  · exact .inr ⟨by omega, if_neg h⟩

/-- Reading a slot after one has been written. -/
theorem slot_set {s : State} {j : Nat} (h : j < s.stack.length) (v : Word) (n k : Nat) :
    State.slot { s with stack := s.stack.set j v, sp := n } k = if k = j + 1 then v else s.slot k := by
  unfold State.slot
  rcases k with _ | k
  · simp
  · by_cases hk : k = j
    · subst hk; simp [h]
    · have : ¬ j = k := fun e => hk e.symm
      simp [List.getD_eq_getElem?_getD, hk, this]

/-- Everything reading the sprite rows can do (45_collaborator_ops.md R108). -/
theorem spriteRows_cases (s : State) (n : Nat) :
    (0 < n ∧ s.cfg.memorySize < s.I.toNat + n ∧
      spriteRows s n = .error (.addressOutOfBounds (.addr (s.I.toNat + n - 1)))) ∨
    ((n = 0 ∨ s.I.toNat + n ≤ s.cfg.memorySize) ∧
      spriteRows s n = .ok ((List.range n).map (fun k => s.mem.byteAt (s.I.toNat + k)))) := by
  unfold spriteRows
  by_cases h : 0 < n ∧ s.cfg.memorySize ≤ s.I.toNat + n - 1
  · exact .inl ⟨h.1, by omega, if_pos h⟩
  · exact .inr ⟨by omega, if_neg h⟩

end Sys2Proof.Machine
end

