-- ==== Sys2Proof/Laws/Exec.lean ====
section
/-! SUPPORT. What `exec` does, once per instruction: an equation for each instruction that always completes, a case split for
the four that have more than one outcome, and the same for `step`. Proofs cite these instead of unfolding the meanings. -/

namespace Sys2Proof.Machine

@[simp] theorem exec_clearDisplay (s : State) : exec .clearDisplay s = .next (s.advance.send .clear) := rfl

@[simp] theorem exec_jump (addr : BitVec 12) (s : State) :
    exec (.jump addr) s = .next (s.goto (addrOperand addr)) := rfl

@[simp] theorem exec_skipEqImm (x : Reg) (imm : Byte) (s : State) :
    exec (.skipEqImm x imm) s = .next (s.skipIf (s.reg x == imm)) := rfl

@[simp] theorem exec_skipNeImm (x : Reg) (imm : Byte) (s : State) :
    exec (.skipNeImm x imm) s = .next (s.skipIf (s.reg x != imm)) := rfl

@[simp] theorem exec_skipEqReg (x : Reg) (y : Reg) (s : State) :
    exec (.skipEqReg x y) s = .next (s.skipIf (s.reg x == s.reg y)) := rfl

@[simp] theorem exec_skipNeReg (x : Reg) (y : Reg) (s : State) :
    exec (.skipNeReg x y) s = .next (s.skipIf (s.reg x != s.reg y)) := rfl

@[simp] theorem exec_loadImm (x : Reg) (imm : Byte) (s : State) :
    exec (.loadImm x imm) s = .next ((s.setReg x imm).advance) := rfl

@[simp] theorem exec_addImm (x : Reg) (imm : Byte) (s : State) :
    exec (.addImm x imm) s = .next ((s.setReg x (addResult (s.reg x) imm)).advance) := rfl

@[simp] theorem exec_move (x : Reg) (y : Reg) (s : State) :
    exec (.move x y) s = .next ((s.setReg x (s.reg y)).advance) := rfl

@[simp] theorem exec_orReg (x : Reg) (y : Reg) (s : State) :
    exec (.orReg x y) s = .next ((s.setReg x (s.reg x ||| s.reg y)).advance) := rfl

@[simp] theorem exec_andReg (x : Reg) (y : Reg) (s : State) :
    exec (.andReg x y) s = .next ((s.setReg x (s.reg x &&& s.reg y)).advance) := rfl

@[simp] theorem exec_xorReg (x : Reg) (y : Reg) (s : State) :
    exec (.xorReg x y) s = .next ((s.setReg x (s.reg x ^^^ s.reg y)).advance) := rfl

@[simp] theorem exec_addReg (x : Reg) (y : Reg) (s : State) :
    exec (.addReg x y) s = .next (((s.setReg x (addResult (s.reg x) (s.reg y))).setFlag (addCarry (s.reg x) (s.reg y))).advance) := rfl

@[simp] theorem exec_subReg (x : Reg) (y : Reg) (s : State) :
    exec (.subReg x y) s = .next (((s.setReg x (subResult (s.reg x) (s.reg y))).setFlag (subNoBorrow (s.reg x) (s.reg y))).advance) := rfl

@[simp] theorem exec_shiftRight (x : Reg) (y : Reg) (s : State) :
    exec (.shiftRight x y) s = .next (((s.setFlag (shrOut (s.reg x))).setReg x (shrResult (s.reg x))).advance) := rfl

@[simp] theorem exec_subRegRev (x : Reg) (y : Reg) (s : State) :
    exec (.subRegRev x y) s = .next (((s.setReg x (subResult (s.reg y) (s.reg x))).setFlag (subNoBorrow (s.reg y) (s.reg x))).advance) := rfl

@[simp] theorem exec_shiftLeft (x : Reg) (y : Reg) (s : State) :
    exec (.shiftLeft x y) s = .next (((s.setFlag (shlOut (s.reg x))).setReg x (shlResult (s.reg x))).advance) := rfl

@[simp] theorem exec_loadAddr (addr : BitVec 12) (s : State) :
    exec (.loadAddr addr) s = .next ((s.setI (addrOperand addr)).advance) := rfl

@[simp] theorem exec_jumpOffset (addr : BitVec 12) (s : State) :
    exec (.jumpOffset addr) s = .next (s.goto (offsetTarget s addr)) := rfl

@[simp] theorem exec_randAnd (x : Reg) (imm : Byte) (s : State) :
    exec (.randAnd x imm) s = .next ((s.setReg x (s.inputs.randByte &&& imm)).advance) := rfl

@[simp] theorem exec_skipKeyPressed (x : Reg) (s : State) :
    exec (.skipKeyPressed x) s = .next (s.skipIf (keyPressed s x)) := rfl

@[simp] theorem exec_skipKeyNotPressed (x : Reg) (s : State) :
    exec (.skipKeyNotPressed x) s = .next (s.skipIf (!keyPressed s x)) := rfl

@[simp] theorem exec_loadDelay (x : Reg) (s : State) :
    exec (.loadDelay x) s = .next ((s.setReg x s.DT).advance) := rfl

/-- Everything call can do (41_control_flow.md R82). -/
theorem exec_call_cases (addr : BitVec 12) (s : State) :
    (s.cfg.stackDepth ≤ s.sp ∧ exec (.call addr) s = .fault (.addressOutOfBounds .stack)) ∨
    (s.sp < s.cfg.stackDepth ∧ exec (.call addr) s = .next
      (State.goto { s with stack := s.stack.set s.sp (s.pc + 2), sp := s.sp + 1 } (addrOperand addr))) := by
  rcases push_cases s (s.pc + 2) with ⟨h, e⟩ | ⟨h, e⟩
  · exact .inl ⟨h, by simp only [exec, execCall, e]⟩
  · exact .inr ⟨h, by simp only [exec, execCall, e]⟩

/-- Everything return can do (41_control_flow.md R80). -/
theorem exec_ret_cases (s : State) :
    (s.sp = 0 ∧ exec .ret s = .fault (.addressOutOfBounds .stack)) ∨
    (0 < s.sp ∧ exec .ret s = .next (State.goto { s with sp := s.sp - 1 } (s.slot s.sp))) := by
  rcases pop_cases s with ⟨h, e⟩ | ⟨h, e⟩
  · exact .inl ⟨h, by simp only [exec, execRet, e]⟩
  · exact .inr ⟨h, by simp only [exec, execRet, e]⟩

/-- Everything draw can do (45_collaborator_ops.md R108). -/
theorem exec_draw_cases (x y : Reg) (n : Fin 16) (s : State) :
    (0 < n.val ∧ s.cfg.memorySize < s.I.toNat + n.val ∧
      exec (.draw x y n) s = .fault (.addressOutOfBounds (.addr (s.I.toNat + n.val - 1)))) ∨
    ((n.val = 0 ∨ s.I.toNat + n.val ≤ s.cfg.memorySize) ∧ exec (.draw x y n) s = .next
      ((s.setFlag s.inputs.dispHit).advance.send (.draw (s.reg x) (s.reg y)
        ((List.range n.val).map (fun k => s.mem.byteAt (s.I.toNat + k)))))) := by
  rcases spriteRows_cases s n.val with ⟨h, h', e⟩ | ⟨h, e⟩
  · exact .inl ⟨h, h', by simp only [exec, execDraw, e]⟩
  · exact .inr ⟨h, by simp only [exec, execDraw, e]⟩

/-- Everything wait-key can do (45_collaborator_ops.md R112). -/
theorem exec_waitKey_cases (x : Reg) (s : State) :
    (s.inputs.keyEvent = none ∧ exec (.waitKey x) s = .next s.stall) ∨
    (∃ k, s.inputs.keyEvent = some k ∧ exec (.waitKey x) s = .next (s.setReg x (keyValue k)).advance) := by
  rcases h : s.inputs.keyEvent with _ | k
  · exact .inl ⟨rfl, by simp only [exec, execWaitKey, h]⟩
  · exact .inr ⟨k, rfl, by simp only [exec, execWaitKey, h]⟩

/-- A step whose fetch succeeds and whose word decodes is that instruction, then the environment. -/
theorem step_of_decoded {s : State} {w : Word} {i : Instr} (hf : fetch s = .ok w) (hd : decode w = .instr i) :
    step s = thenEnvironment (exec i s) := by simp only [step, hf, hd]

/-- Everything a step can do, in terms of fetch, decode and exec (40_step_and_dispatch.md R78). -/
theorem step_cases (s : State) :
    (∃ f, fetch s = .error f ∧ step s = .fault f) ∨
    (∃ w v, fetch s = .ok w ∧ decode w = .invalidOpcode v ∧ step s = .fault (.invalidOpcode v)) ∨
    (∃ w i, fetch s = .ok w ∧ decode w = .instr i ∧ step s = thenEnvironment (exec i s)) := by
  rcases hf : fetch s with f | w
  · exact .inl ⟨f, rfl, by simp only [step, hf]⟩
  · rcases hd : decode w with i | v
    · exact .inr (.inr ⟨w, i, rfl, hd, step_of_decoded hf hd⟩)
    · exact .inr (.inl ⟨w, v, rfl, hd, by simp only [step, hf, hd]⟩)

/-- A completed step comes from a completed instruction, followed by the environment's move. -/
theorem step_next_inv {s u : State} (h : step s = .next u) : ∃ w i t, fetch s = .ok w ∧ decode w = .instr i ∧
    exec i s = .next t ∧ u = betweenSteps t := by
  rcases step_cases s with ⟨f, -, e⟩ | ⟨w, v, -, -, e⟩ | ⟨w, i, hf, hd, e⟩
  · rw [e] at h; cases h
  · rw [e] at h; cases h
  · rw [e] at h
    rcases hx : exec i s with t | f | r <;> rw [hx] at h
    · exact ⟨w, i, t, hf, hd, hx, (Host.Outcome.next.inj h).symm⟩
    · cases h
    · cases h

end Sys2Proof.Machine
end

