-- ==== Sys2Proof/Laws/Frame.lean ====
section
/-! SUPPORT. The frames of the shared updates: what they leave alone. -/

namespace Sys2Proof.Machine

theorem sameStack_refl (s : State) : SameStack s s := ⟨rfl, rfl, fun _ => rfl⟩

theorem sameSurroundings_refl (s : State) : SameSurroundings s s := ⟨rfl, rfl, rfl, rfl, rfl, rfl, rfl⟩

/-- An update of `V`, `pc` and the outputs alone frames everything but the registers it changes. -/
theorem frame_of_update {s t : State} {changed : List Reg} {V' : Vector Byte 16} {pc' : Word} {o : StepOutputs}
    (e : t = { s with V := V', pc := pc', out := o }) (h : SameRegs changed s t) : Frame changed s t := by
  subst e
  exact ⟨h, rfl, sameStack_refl s, fun _ => rfl, sameSurroundings_refl s⟩

theorem frame_goto (s : State) (a : Word) : Frame [] s (s.goto a) := frame_of_update rfl fun _ _ => rfl

theorem frame_skipIf (s : State) (c : Bool) : Frame [] s (s.skipIf c) := frame_of_update rfl fun _ _ => rfl

/-- One register written, then the uniform advance. -/
theorem frame_setReg_advance (s : State) (x : Reg) (v : Byte) : Frame [x] s (s.setReg x v).advance :=
  frame_of_update rfl fun r hr => by
    rw [reg_advance, reg_setReg, if_neg (by simpa using hr)]

/-- A result and then the flag. -/
theorem frame_setReg_setFlag_advance (s : State) (x : Reg) (v : Byte) (b : Bool) :
    Frame [x, 15] s ((s.setReg x v).setFlag b).advance :=
  frame_of_update rfl fun r hr => by
    simp only [List.mem_cons, List.not_mem_nil, or_false, not_or] at hr
    rw [reg_advance, reg_setFlag, if_neg hr.2, reg_setReg, if_neg hr.1]

/-- The flag and then a result. -/
theorem frame_setFlag_setReg_advance (s : State) (x : Reg) (v : Byte) (b : Bool) :
    Frame [x, 15] s ((s.setFlag b).setReg x v).advance :=
  frame_of_update rfl fun r hr => by
    simp only [List.mem_cons, List.not_mem_nil, or_false, not_or] at hr
    rw [reg_advance, reg_setReg, if_neg hr.1, reg_setFlag, if_neg hr.2]

/-- The flag alone, then the advance and a command. -/
theorem frame_setFlag_advance_send (s : State) (b : Bool) (c : DispCmd) :
    Frame [15] s ((s.setFlag b).advance.send c) :=
  frame_of_update rfl fun r hr => by
    rw [reg_send, reg_advance, reg_setFlag, if_neg (by simpa using hr)]

/-- Writing back the value a register holds changes no register. -/
theorem frame_setReg_same_advance (s : State) (x : Reg) {v : Byte} (h : v = s.reg x) :
    Frame [] s (s.setReg x v).advance :=
  frame_of_update rfl fun r _ => by
    rw [reg_advance, reg_setReg]; split
    · next e => rw [e, h]
    · rfl

end Sys2Proof.Machine
end

