-- ==== Sys2Proof/Laws/PerInstr.lean ====
section
/-! SUPPORT. The per-instruction law EncodesItsOwnRow: the word an instruction encodes to selects the row of the opcode map
that bears the instruction's mnemonic (30_encoding.md R56). -/

namespace Sys2Proof.Laws

/-- The word keeps the group its format puts in front (R54). -/
theorem packA_masked (g : BitVec 4) (addr : BitVec 12) : packA g addr &&& 0xF000 = packA g 0 := by
  refine BitVec.eq_of_getLsbD_eq fun i hi => ?_
  simp only [packA, BitVec.getLsbD_and, BitVec.getLsbD_append]
  interval_cases i <;> simp

theorem packXI_masked (g : BitVec 4) (x : Reg) (imm : Byte) : packXI g x imm &&& 0xF000 = packXI g 0 0 := by
  refine BitVec.eq_of_getLsbD_eq fun i hi => ?_
  simp only [packXI, BitVec.getLsbD_and, BitVec.getLsbD_append]
  interval_cases i <;> simp

theorem packXI_masked_low (g : BitVec 4) (x : Reg) (imm : Byte) : packXI g x imm &&& 0xF0FF = packXI g 0 imm := by
  refine BitVec.eq_of_getLsbD_eq fun i hi => ?_
  simp only [packXI, BitVec.getLsbD_and, BitVec.getLsbD_append]
  interval_cases i <;> simp

theorem packXYN_masked (g : BitVec 4) (x y : Reg) (n : BitVec 4) : packXYN g x y n &&& 0xF00F = packXYN g 0 0 n := by
  refine BitVec.eq_of_getLsbD_eq fun i hi => ?_
  simp only [packXYN, BitVec.getLsbD_and, BitVec.getLsbD_append]
  interval_cases i <;> simp

theorem packXYN_masked_group (g : BitVec 4) (x y : Reg) (n : BitVec 4) :
    packXYN g x y n &&& 0xF000 = packXYN g 0 0 0 := by
  refine BitVec.eq_of_getLsbD_eq fun i hi => ?_
  simp only [packXYN, BitVec.getLsbD_and, BitVec.getLsbD_append]
  interval_cases i <;> simp

/-- Some row of the opcode map bears the mnemonic and is selected by the word. -/
def EncodesItsOwnRow.Statement (i : Instr) : Prop :=
  ∃ r ∈ opcodeTable, r.mnemonic = i.mnemonic ∧ r.selects (encode i) = true

theorem EncodesItsOwnRow.clearDisplay : EncodesItsOwnRow.Statement (.clearDisplay) :=
  ⟨⟨"clear-display", 0x00E0, 0xFFFF⟩, by decide, rfl, rfl⟩

theorem EncodesItsOwnRow.ret : EncodesItsOwnRow.Statement (.ret) :=
  ⟨⟨"return", 0x00EE, 0xFFFF⟩, by decide, rfl, rfl⟩

theorem EncodesItsOwnRow.jump (addr : BitVec 12) : EncodesItsOwnRow.Statement (.jump addr) :=
  ⟨⟨"jump", 0x1000, 0xF000⟩, by decide, rfl, by rw [OpcodeRow.selects, encode, packA_masked]; rfl⟩

theorem EncodesItsOwnRow.call (addr : BitVec 12) : EncodesItsOwnRow.Statement (.call addr) :=
  ⟨⟨"call", 0x2000, 0xF000⟩, by decide, rfl, by rw [OpcodeRow.selects, encode, packA_masked]; rfl⟩

theorem EncodesItsOwnRow.skipEqImm (x : Reg) (imm : Byte) : EncodesItsOwnRow.Statement (.skipEqImm x imm) :=
  ⟨⟨"skip-eq-imm", 0x3000, 0xF000⟩, by decide, rfl, by rw [OpcodeRow.selects, encode, packXI_masked]; rfl⟩

theorem EncodesItsOwnRow.skipNeImm (x : Reg) (imm : Byte) : EncodesItsOwnRow.Statement (.skipNeImm x imm) :=
  ⟨⟨"skip-ne-imm", 0x4000, 0xF000⟩, by decide, rfl, by rw [OpcodeRow.selects, encode, packXI_masked]; rfl⟩

theorem EncodesItsOwnRow.skipEqReg (x y : Reg) : EncodesItsOwnRow.Statement (.skipEqReg x y) :=
  ⟨⟨"skip-eq-reg", 0x5000, 0xF00F⟩, by decide, rfl, by rw [OpcodeRow.selects, encode, packXYN_masked]; rfl⟩

theorem EncodesItsOwnRow.skipNeReg (x y : Reg) : EncodesItsOwnRow.Statement (.skipNeReg x y) :=
  ⟨⟨"skip-ne-reg", 0x9000, 0xF00F⟩, by decide, rfl, by rw [OpcodeRow.selects, encode, packXYN_masked]; rfl⟩

theorem EncodesItsOwnRow.loadImm (x : Reg) (imm : Byte) : EncodesItsOwnRow.Statement (.loadImm x imm) :=
  ⟨⟨"load-imm", 0x6000, 0xF000⟩, by decide, rfl, by rw [OpcodeRow.selects, encode, packXI_masked]; rfl⟩

theorem EncodesItsOwnRow.addImm (x : Reg) (imm : Byte) : EncodesItsOwnRow.Statement (.addImm x imm) :=
  ⟨⟨"add-imm", 0x7000, 0xF000⟩, by decide, rfl, by rw [OpcodeRow.selects, encode, packXI_masked]; rfl⟩

theorem EncodesItsOwnRow.move (x y : Reg) : EncodesItsOwnRow.Statement (.move x y) :=
  ⟨⟨"move", 0x8000, 0xF00F⟩, by decide, rfl, by rw [OpcodeRow.selects, encode, packXYN_masked]; rfl⟩

theorem EncodesItsOwnRow.orReg (x y : Reg) : EncodesItsOwnRow.Statement (.orReg x y) :=
  ⟨⟨"or", 0x8001, 0xF00F⟩, by decide, rfl, by rw [OpcodeRow.selects, encode, packXYN_masked]; rfl⟩

theorem EncodesItsOwnRow.andReg (x y : Reg) : EncodesItsOwnRow.Statement (.andReg x y) :=
  ⟨⟨"and", 0x8002, 0xF00F⟩, by decide, rfl, by rw [OpcodeRow.selects, encode, packXYN_masked]; rfl⟩

theorem EncodesItsOwnRow.xorReg (x y : Reg) : EncodesItsOwnRow.Statement (.xorReg x y) :=
  ⟨⟨"xor", 0x8003, 0xF00F⟩, by decide, rfl, by rw [OpcodeRow.selects, encode, packXYN_masked]; rfl⟩

theorem EncodesItsOwnRow.addReg (x y : Reg) : EncodesItsOwnRow.Statement (.addReg x y) :=
  ⟨⟨"add-reg", 0x8004, 0xF00F⟩, by decide, rfl, by rw [OpcodeRow.selects, encode, packXYN_masked]; rfl⟩

theorem EncodesItsOwnRow.subReg (x y : Reg) : EncodesItsOwnRow.Statement (.subReg x y) :=
  ⟨⟨"sub-reg", 0x8005, 0xF00F⟩, by decide, rfl, by rw [OpcodeRow.selects, encode, packXYN_masked]; rfl⟩

theorem EncodesItsOwnRow.shiftRight (x y : Reg) : EncodesItsOwnRow.Statement (.shiftRight x y) :=
  ⟨⟨"shift-right", 0x8006, 0xF00F⟩, by decide, rfl, by rw [OpcodeRow.selects, encode, packXYN_masked]; rfl⟩

theorem EncodesItsOwnRow.subRegRev (x y : Reg) : EncodesItsOwnRow.Statement (.subRegRev x y) :=
  ⟨⟨"sub-reg-rev", 0x8007, 0xF00F⟩, by decide, rfl, by rw [OpcodeRow.selects, encode, packXYN_masked]; rfl⟩

theorem EncodesItsOwnRow.shiftLeft (x y : Reg) : EncodesItsOwnRow.Statement (.shiftLeft x y) :=
  ⟨⟨"shift-left", 0x800E, 0xF00F⟩, by decide, rfl, by rw [OpcodeRow.selects, encode, packXYN_masked]; rfl⟩

theorem EncodesItsOwnRow.loadAddr (addr : BitVec 12) : EncodesItsOwnRow.Statement (.loadAddr addr) :=
  ⟨⟨"load-addr", 0xA000, 0xF000⟩, by decide, rfl, by rw [OpcodeRow.selects, encode, packA_masked]; rfl⟩

theorem EncodesItsOwnRow.jumpOffset (addr : BitVec 12) : EncodesItsOwnRow.Statement (.jumpOffset addr) :=
  ⟨⟨"jump-offset", 0xB000, 0xF000⟩, by decide, rfl, by rw [OpcodeRow.selects, encode, packA_masked]; rfl⟩

theorem EncodesItsOwnRow.randAnd (x : Reg) (imm : Byte) : EncodesItsOwnRow.Statement (.randAnd x imm) :=
  ⟨⟨"rand-and", 0xC000, 0xF000⟩, by decide, rfl, by rw [OpcodeRow.selects, encode, packXI_masked]; rfl⟩

theorem EncodesItsOwnRow.draw (x y : Reg) (n : Fin 16) : EncodesItsOwnRow.Statement (.draw x y n) :=
  ⟨⟨"draw", 0xD000, 0xF000⟩, by decide, rfl, by rw [OpcodeRow.selects, encode, packXYN_masked_group]; rfl⟩

theorem EncodesItsOwnRow.skipKeyPressed (x : Reg) : EncodesItsOwnRow.Statement (.skipKeyPressed x) :=
  ⟨⟨"skip-key-pressed", 0xE09E, 0xF0FF⟩, by decide, rfl, by rw [OpcodeRow.selects, encode, packXI_masked_low]; rfl⟩

theorem EncodesItsOwnRow.skipKeyNotPressed (x : Reg) : EncodesItsOwnRow.Statement (.skipKeyNotPressed x) :=
  ⟨⟨"skip-key-not-pressed", 0xE0A1, 0xF0FF⟩, by decide, rfl, by rw [OpcodeRow.selects, encode, packXI_masked_low]; rfl⟩

theorem EncodesItsOwnRow.loadDelay (x : Reg) : EncodesItsOwnRow.Statement (.loadDelay x) :=
  ⟨⟨"load-delay", 0xF007, 0xF0FF⟩, by decide, rfl, by rw [OpcodeRow.selects, encode, packXI_masked_low]; rfl⟩

theorem EncodesItsOwnRow.waitKey (x : Reg) : EncodesItsOwnRow.Statement (.waitKey x) :=
  ⟨⟨"wait-key", 0xF00A, 0xF0FF⟩, by decide, rfl, by rw [OpcodeRow.selects, encode, packXI_masked_low]; rfl⟩

end Sys2Proof.Laws
end

