-- ==== Sys2Proof/Laws/Run.lean ====
section
/-! SUPPORT. The host's run of several steps, one step at a time, in terms of `step`. -/

namespace Sys2Proof.Machine

/-- A run that starts with a completed step goes on from the state it answers. -/
theorem run_succ_of_next {k : Nat} {s t : State} (h : step s = .next t) :
    Sys2Proof.core.run (k + 1) s = Sys2Proof.core.run k t := by
  have h' : Sys2Proof.core.step s = .next t := h
  have e := Host.Core.run.eq_2 Sys2Proof.core s k
  rw [h'] at e
  exact e

/-- A run of at least one step that completes starts with a completed step. -/
theorem run_succ_next_inv {k : Nat} {s u : State} (h : Sys2Proof.core.run (k + 1) s = .next u) :
    ∃ t, step s = .next t ∧ Sys2Proof.core.run k t = .next u := by
  have e := Host.Core.run.eq_2 Sys2Proof.core s k
  cases hs : step s with
  | next t =>
    have h' : Sys2Proof.core.step s = .next t := hs
    rw [h'] at e
    exact ⟨t, rfl, e.symm.trans h⟩
  | fault f =>
    have h' : Sys2Proof.core.step s = .fault f := hs
    rw [h'] at e
    exact absurd (e.symm.trans h) (by simp)
  | refused r =>
    have h' : Sys2Proof.core.step s = .refused r := hs
    rw [h'] at e
    exact absurd (e.symm.trans h) (by simp)

end Sys2Proof.Machine
end

