-- ==== Sys2Proof/Tests/Slice0.lean ====
section
/-! SUPPORT. The model's own tests. Instruction words are written out bit by bit from 30_encoding.md R54 and R56; expected
results are those of spec/95_test_vectors.md (the vector's number stands beside each test), never the model's own answer.
The second half shows, for each obligation with hypotheses, concrete values that meet them. -/

namespace Sys2Proof.Tests

open Sys2Proof Sys2Proof.Machine

/-! ## Small states -/

/-- Write some data registers. -/
def setRegs (s : State) : List (Reg × Byte) → State
  | [] => s
  | (r, v) :: l => setRegs (s.setReg r v) l

/-- Write some bytes from an address upward. -/
def poke (s : State) (a : Nat) : List Byte → State
  | [] => s
  | b :: bs => poke { s with mem := s.mem.setByte a b } (a + 1) bs

/-- A quiet move of the environment: nothing pressed, timers 0. -/
def idle : EnvMove := ⟨0, 0, 0, ⟨0, none, false⟩⟩

/-- The reset state with the word `w` at 0x200, some registers, and one quiet move scheduled. -/
def start (w : Word) (regs : List (Reg × Byte)) : State :=
  (setRegs { State.reset with schedule := [idle] } regs).withFetchWord 16 w.toNat

/-- The same with the word at `pc`. -/
def startAt (pc w : Word) (regs : List (Reg × Byte)) : State :=
  (setRegs { State.reset with pc := pc, schedule := [idle] } regs).withFetchWord 16 w.toNat

/-- The state after one step, when it completes. -/
def after (s : State) : Option State :=
  match step s with
  | .next t => some t
  | _ => none

/-- The failure of one step, when it fails. -/
def failure (s : State) : Option Fault :=
  match step s with
  | .fault f => some f
  | _ => none

/-- Register `r`, the flag register and `pc` after one step. -/
def rfp (r : Reg) (s : State) : Option (Byte × Byte × Word) := (after s).map fun t => (t.reg r, t.reg 15, t.pc)

/-- `pc` after one step. -/
def pcAfter (s : State) : Option Word := (after s).map fun t => t.pc

/-! ## Decoding: one word for each operation, from the patterns of R56 -/

theorem test_decode_clearDisplay : decode 0b0000000011100000 = .instr .clearDisplay := by decide
theorem test_decode_ret : decode 0b0000000011101110 = .instr .ret := by decide
theorem test_decode_jump : decode 0b0001001001000000 = .instr (.jump 0x240) := by decide
theorem test_decode_call : decode 0b0010101010111100 = .instr (.call 0xABC) := by decide
theorem test_decode_skipEqImm : decode 0b0011010110000110 = .instr (.skipEqImm 5 0x86) := by decide
theorem test_decode_skipNeImm : decode 0b0100010110000110 = .instr (.skipNeImm 5 0x86) := by decide
theorem test_decode_skipEqReg : decode 0b0101000110100000 = .instr (.skipEqReg 1 10) := by decide
theorem test_decode_skipNeReg : decode 0b1001000110100000 = .instr (.skipNeReg 1 10) := by decide
theorem test_decode_loadImm : decode 0b0110001110101011 = .instr (.loadImm 3 0xAB) := by decide
theorem test_decode_addImm : decode 0b0111001100100000 = .instr (.addImm 3 0x20) := by decide
theorem test_decode_move : decode 0b1000000110100000 = .instr (.move 1 10) := by decide
theorem test_decode_orReg : decode 0b1000000110100001 = .instr (.orReg 1 10) := by decide
theorem test_decode_andReg : decode 0b1000000110100010 = .instr (.andReg 1 10) := by decide
theorem test_decode_xorReg : decode 0b1000000110100011 = .instr (.xorReg 1 10) := by decide
theorem test_decode_addReg : decode 0b1000000110100100 = .instr (.addReg 1 10) := by decide
theorem test_decode_subReg : decode 0b1000000110100101 = .instr (.subReg 1 10) := by decide
theorem test_decode_shiftRight : decode 0b1000000110100110 = .instr (.shiftRight 1 10) := by decide
theorem test_decode_subRegRev : decode 0b1000000110100111 = .instr (.subRegRev 1 10) := by decide
theorem test_decode_shiftLeft : decode 0b1000000110101110 = .instr (.shiftLeft 1 10) := by decide
theorem test_decode_loadAddr : decode 0b1010001000100000 = .instr (.loadAddr 0x220) := by decide
theorem test_decode_jumpOffset : decode 0b1011001100000000 = .instr (.jumpOffset 0x300) := by decide
theorem test_decode_randAnd : decode 0b1100001100001111 = .instr (.randAnd 3 0x0F) := by decide
theorem test_decode_draw : decode 0b1101000110100101 = .instr (.draw 1 10 5) := by decide
theorem test_decode_skipKeyPressed : decode 0b1110000110011110 = .instr (.skipKeyPressed 1) := by decide
theorem test_decode_skipKeyNotPressed : decode 0b1110000110100001 = .instr (.skipKeyNotPressed 1) := by decide
theorem test_decode_loadDelay : decode 0b1111010000000111 = .instr (.loadDelay 4) := by decide
theorem test_decode_waitKey : decode 0b1111000100001010 = .instr (.waitKey 1) := by decide

/-- Bytes: the first is the more significant (T1, T2), the rest of the string is left, and one byte is no instruction. -/
theorem test_decode_bytes : decodeBytes [0x12, 0x40, 0x99] = .instr (.jump 0x240) [0x99]
    ∧ decodeBytes [0x40, 0x12] = .instr (.skipNeImm 0 0x12) [] ∧ decodeBytes [0x12] = .truncated := by decide

/-- The host's numbering of a word is that of R7. -/
theorem test_decode_table_word : decodeTableWord 16 0x1240 = some (.jump 0x240) ∧ decodeTableWord 16 0x9001 = none := by
  decide

/-! ## WellFormed: an ill-formed word for each line of R61 and an ill-formed choice for each constraint of R6 -/

theorem test_illformed_group0 : wordWellFormed 0x0000 = false ∧ wordWellFormed 0x00E1 = false := by decide
theorem test_illformed_group5 : wordWellFormed 0x5121 = false := by decide
theorem test_illformed_group8 : wordWellFormed 0x8128 = false ∧ wordWellFormed 0x812D = false
    ∧ wordWellFormed 0x812F = false := by decide
theorem test_illformed_group9 : wordWellFormed 0x9001 = false := by decide
theorem test_illformed_groupE : wordWellFormed 0xE19F = false ∧ wordWellFormed 0xE100 = false := by decide
theorem test_illformed_groupF : wordWellFormed 0xF115 = false ∧ wordWellFormed 0xF155 = false := by decide
theorem test_wellformed_edges : wordWellFormed 0x8127 = true ∧ wordWellFormed 0x812E = true
    ∧ wordWellFormed 0x00E0 = true ∧ wordWellFormed 0xFF0A = true := by decide
theorem test_illformed_memory_small : Params.wellFormed ⟨1, 0, 16⟩ = false := by decide
theorem test_illformed_memory_large : Params.wellFormed ⟨4097, 0x200, 16⟩ = false := by decide
theorem test_illformed_load_address : Params.wellFormed ⟨4096, 4095, 16⟩ = false := by decide
theorem test_illformed_stack_depth : Params.wellFormed ⟨4096, 0x200, 0⟩ = false := by decide
theorem test_wellformed_params : Params.wellFormed .default = true ∧ Params.wellFormed ⟨2, 0, 1⟩ = true := by decide

/-! ## The step and its failures -/

/-- T4, T5: fetch fails at and past the last byte. -/
theorem test_fetch_end : failure { State.reset with pc := 0x0FFF } = some (.addressOutOfBounds (.addr 0x0FFF))
    ∧ failure { State.reset with pc := 0x10FE } = some (.addressOutOfBounds (.addr 0x10FE)) := by decide

/-- T6, T43, T122, T150: invalid words. -/
theorem test_invalid_words : failure State.reset = some (.invalidOpcode 0x0000)
    ∧ failure (start 0x9001 []) = some (.invalidOpcode 0x9001) ∧ failure (start 0x0123 []) = some (.invalidOpcode 0x0123)
    ∧ failure (start 0xF115 [(1, 0x10)]) = some (.invalidOpcode 0xF115) := by decide

/-- M1, M4, M7, M10: the memory primitives. -/
theorem test_memory :
    ((memWrite2 State.reset 0x300 0xABCD).toOption.map fun t =>
      (t.mem.byteAt 0x300, t.mem.byteAt 0x301, (memRead2 t 0x301).toOption)) = some (0xAB, 0xCD, some 0xCD00)
    ∧ (memRead2 State.reset 0xFFF).toOption = none ∧ (memWrite2 State.reset 0xFFF 0x1234).toOption = none := by decide

/-! ## One step of each instruction -/

theorem test_clearDisplay : (after (start 0x00E0 [])).map (fun t => (t.out, t.pc)) = some (⟨.clear, false⟩, 0x0202) := by
  decide  -- T120
theorem test_ret : (after { startAt 0x300 0x00EE [] with sp := 2, stack := [0x0202, 0x0ABC] }).map
    (fun t => (t.sp, t.pc, t.stack)) = some (1, 0x0ABC, [0x0202, 0x0ABC]) := by decide  -- T19
theorem test_ret_empty : failure (start 0x00EE []) = some (.addressOutOfBounds .stack) := by decide  -- T20
theorem test_jump : pcAfter (startAt 0x0FFE 0x1200 []) = some 0x0200 := by decide  -- T3
theorem test_call : (after { startAt 0x400 0x2ABC [] with sp := 15 }).map (fun t => (t.sp, t.slot 16, t.pc))
    = some (16, 0x0402, 0x0ABC) := by decide  -- T15
theorem test_call_full : failure { startAt 0x400 0x2ABC [] with sp := 16 } = some (.addressOutOfBounds .stack) := by
  decide  -- T16
theorem test_jumpOffset : pcAfter (start 0xBFFF [(0, 0xFF)]) = some 0x10FE := by decide  -- T23
theorem test_skipEqImm : pcAfter (start 0x3505 [(5, 0x05)]) = some 0x0204
    ∧ pcAfter (start 0x3506 [(5, 0x05)]) = some 0x0202 := by decide  -- T30, T31
theorem test_skipNeImm : pcAfter (start 0x4505 [(5, 0x05)]) = some 0x0202
    ∧ pcAfter (start 0x4506 [(5, 0x05)]) = some 0x0204 := by decide  -- T34, T35
theorem test_skipEqReg : pcAfter (start 0x5120 [(1, 7), (2, 7)]) = some 0x0204
    ∧ pcAfter (start 0x5120 [(1, 7), (2, 8)]) = some 0x0202 := by decide  -- T36, T37
theorem test_skipNeReg : pcAfter (start 0x9120 [(1, 7), (2, 8)]) = some 0x0204
    ∧ pcAfter (start 0x9120 [(1, 7), (2, 7)]) = some 0x0202 := by decide  -- T39, T40
theorem test_loadImm : rfp 3 (start 0x63AB []) = some (0xAB, 0x00, 0x0202) := by decide  -- T50
theorem test_addImm : rfp 3 (start 0x7301 [(3, 0xFF), (15, 0x5A)]) = some (0x00, 0x5A, 0x0202) := by decide  -- T54
theorem test_move : rfp 15 (start 0x8FA0 [(10, 0x42)]) = some (0x42, 0x42, 0x0202) := by decide  -- T59
theorem test_loadAddr : (after (start 0xAFFF [])).map (fun t => (t.I, t.pc)) = some (0x0FFF, 0x0202) := by decide  -- T62
theorem test_orReg : rfp 1 (start 0x8121 [(1, 0xF0), (2, 0x0F), (15, 0x77)]) = some (0xFF, 0x77, 0x0202) := by
  decide  -- T70
theorem test_andReg : rfp 1 (start 0x8122 [(1, 0xF0), (2, 0x3C), (15, 0x77)]) = some (0x30, 0x77, 0x0202) := by
  decide  -- T71
theorem test_xorReg : rfp 1 (start 0x8123 [(1, 0xFF), (2, 0x0F), (15, 0x77)]) = some (0xF0, 0x77, 0x0202) := by
  decide  -- T72
theorem test_addReg : rfp 1 (start 0x8124 [(1, 0xC8), (2, 0x37), (15, 0x01)]) = some (0xFF, 0x00, 0x0202)
    ∧ rfp 1 (start 0x8124 [(1, 0xFF), (2, 0x01)]) = some (0x00, 0x01, 0x0202) := by decide  -- T76, T77
theorem test_addReg_flag : rfp 1 (start 0x8F14 [(15, 0xF0), (1, 0x20)]) = some (0x20, 0x01, 0x0202) := by decide  -- T81
theorem test_subReg : rfp 1 (start 0x8125 [(1, 0x03), (2, 0x0A), (15, 0x01)]) = some (0xF9, 0x00, 0x0202)
    ∧ rfp 1 (start 0x8125 [(1, 0x07), (2, 0x07)]) = some (0x00, 0x01, 0x0202) := by decide  -- T87, T88
theorem test_subReg_flag : rfp 1 (start 0x81F5 [(1, 0x05), (15, 0x09)]) = some (0xFC, 0x00, 0x0202) := by decide  -- T93
theorem test_subRegRev : rfp 1 (start 0x8127 [(1, 0x03), (2, 0x0A)]) = some (0x07, 0x01, 0x0202)
    ∧ rfp 1 (start 0x8127 [(1, 0x0A), (2, 0x03), (15, 0x01)]) = some (0xF9, 0x00, 0x0202) := by decide  -- T94, T95
theorem test_shiftRight : rfp 1 (start 0x81A6 [(1, 0x04), (10, 0xFF), (15, 0x01)]) = some (0x02, 0x00, 0x0202)
    ∧ rfp 1 (start 0x8106 [(1, 0x03)]) = some (0x01, 0x01, 0x0202) := by decide  -- T103, T99
theorem test_shiftRight_flag : rfp 15 (start 0x8F06 [(15, 0x02)]) = some (0x01, 0x01, 0x0202) := by decide  -- T105
theorem test_shiftLeft : rfp 1 (start 0x810E [(1, 0x81)]) = some (0x02, 0x01, 0x0202)
    ∧ rfp 1 (start 0x810E [(1, 0x40), (15, 0x01)]) = some (0x80, 0x00, 0x0202) := by decide  -- T106, T107
theorem test_shiftLeft_flag : rfp 15 (start 0x8F0E [(15, 0xC0)]) = some (0x80, 0x80, 0x0202) := by decide  -- T111
theorem test_randAnd : rfp 3 { start 0xC30F [] with inputs := ⟨0xA7, none, false⟩ } = some (0x07, 0x00, 0x0202) := by
  decide  -- T124
theorem test_draw : (after { poke (start 0xD125 [(1, 0x0A), (2, 0x14)]) 0x300 [0xF0, 0x90, 0x90, 0x90, 0xF0] with
      I := 0x0300, inputs := ⟨0, none, true⟩ }).map (fun t => (t.out.dispCmd, t.reg 15, t.pc))
    = some (.draw 0x0A 0x14 [0xF0, 0x90, 0x90, 0x90, 0xF0], 0x01, 0x0202) := by decide  -- T128
theorem test_draw_end : (after { start 0xD120 [(1, 0xFF), (2, 0x80)] with I := 0x0FFF }).map (fun t => t.out.dispCmd)
      = some (.draw 0xFF 0x80 [])
    ∧ failure { start 0xD125 [] with I := 0x0FFC } = some (.addressOutOfBounds (.addr 0x1000)) := by
  decide  -- T130, T132
theorem test_skipKeyPressed : pcAfter { start 0xE19E [(1, 0x17)] with keys := 0x0080 } = some 0x0204
    ∧ pcAfter { start 0xE19E [(1, 0x07)] with keys := 0x0100 } = some 0x0202 := by decide  -- T137, T136
theorem test_skipKeyNotPressed : pcAfter { start 0xE1A1 [(1, 0x07)] with keys := 0x0080 } = some 0x0202
    ∧ pcAfter (start 0xE1A1 [(1, 0xF7)]) = some 0x0204 := by decide  -- T138, T140
theorem test_loadDelay : rfp 4 { start 0xF407 [] with DT := 0x2A } = some (0x2A, 0x00, 0x0202) := by decide  -- T143
theorem test_waitKey_none : (after { start 0xF10A [] with keys := 0x0008 }).map
    (fun t => (t.V, t.pc, t.out)) = some (State.reset.V, 0x0200, ⟨.none, true⟩) := by decide  -- T146
theorem test_waitKey_event : rfp 1 { start 0xF10A [] with inputs := ⟨0, some 0xB, false⟩ } = some (0x0B, 0x00, 0x0202) := by
  decide  -- T147

/-- `withFetchWord` places the word where the very next step fetches it, and nothing else. -/
theorem test_withFetchWord : (State.reset.withFetchWord 16 0x6A05).mem = [(0x200, 0x6A), (0x201, 0x05)]
    ∧ rfp 10 (State.reset.withFetchWord 16 0x6A05) = some (0x05, 0x00, 0x0202) := by decide

/-! ## Witnesses: for each obligation with hypotheses, concrete values that meet them, clause by clause and at the edges -/

/-- A state of the invariant, at the highest fetchable `pc`, with `call 0xABC` there and one slot of the stack in use. -/
def deep : State := { startAt 0x0FFE 0x2ABC [(1, 0xFA), (2, 0x0A)] with sp := 15 }

theorem witness_EncodeOfDecodeIsTheWord :
    decode 0x81A6 = .instr (.shiftRight 1 10) ∧ decode 0x9001 = .invalidOpcode 0x9001 := by decide

theorem witness_DecoderAcceptsExactlyTheTable : decode 0xE3A1 = .instr (.skipKeyNotPressed 3)
    ∧ wordWellFormed 0xE3A1 = true ∧ wordListedInvalid 0x8127 = false ∧ wordListedInvalid 0x8128 = true
    ∧ wordListedInvalid 0x812D = true ∧ wordListedInvalid 0x812E = false ∧ wordListedInvalid 0x812F = true := by decide

theorem witness_NoTwoPatternsOverlap : ∃ r ∈ opcodeTable, r.selects 0x812E = true := by decide

theorem witness_StepRunsTheDecodedInstruction :
    deep.pc.toNat + 1 < deep.cfg.memorySize
    ∧ [deep.mem.byteAt deep.pc.toNat, deep.mem.byteAt (deep.pc.toNat + 1)] = encodeBytes (.call 0xABC)
    ∧ (∃ t, exec (.call 0xABC) deep = .next t)
    ∧ exec (.call 0xABC) { deep with sp := 16 } = .fault (.addressOutOfBounds .stack) :=
  ⟨by decide, by decide, ⟨_, rfl⟩, rfl⟩

theorem witness_FetchFailsExactlyAtMemoryEnd :
    State.reset.cfg.memorySize ≤ { State.reset with pc := 0x0FFF }.pc.toNat + 1
    ∧ { State.reset with pc := 0x0FFE }.pc.toNat + 1 < State.reset.cfg.memorySize
    ∧ State.reset.cfg = Params.default := by decide

theorem witness_InvalidWordsFail : failure (start 0x5121 []) = some (.invalidOpcode 0x5121)
    ∧ wordNumberAt (start 0x5121 []) 0x200 = 0x5121 ∧ wordListedInvalid 0x5121 = true := by decide

theorem witness_ExecCompletesUnlessR133 :
    failureOf deep (.call 0xABC) = none ∧ failureOf { deep with sp := 16 } (.call 0xABC) = some .stack
    ∧ failureOf State.reset .ret = some .stack ∧ failureOf { State.reset with I := 0xFFF } (.draw 0 0 1) = none
    ∧ failureOf { State.reset with I := 0xFFF } (.draw 0 0 2) = some (.addr 0x1000) := by decide

theorem witness_FailureRepeatsWhateverTheEnvironmentDoes : step (start 0x00EE []) = .fault (.addressOutOfBounds .stack) :=
  rfl

theorem witness_JumpSetsPcToItsAddress : State.reset.pc.toNat = (0x200 : BitVec 12).toNat
    ∧ State.reset.cfg.memorySize ≤ 4096 := by decide

theorem witness_CallPushesTheReturnAddress : deep.stack.length = deep.cfg.stackDepth ∧ deep.sp < deep.cfg.stackDepth
    ∧ { deep with sp := 16 }.sp = deep.cfg.stackDepth := by decide

theorem witness_ReturnPopsTheReturnAddress : 0 < { State.reset with sp := 1 }.sp ∧ State.reset.sp = 0 := by decide

theorem witness_ReturnComesBackFromCall : ∃ t u : State, deep.stack.length = deep.cfg.stackDepth
    ∧ exec (.call 0xABC) deep = .next t ∧ u.sp = t.sp ∧ u.stack = t.stack ∧ u.pc ≠ t.pc :=
  ⟨_, { (State.goto { deep with stack := deep.stack.set 15 0x1000, sp := 16 } 0xABC) with pc := 0x300 },
    by decide, rfl, rfl, rfl, by decide⟩

theorem witness_OnlyCallAndReturnTouchTheStack : (∃ t, exec .ret { deep with sp := 1 } = .next t)
    ∧ (∃ t, exec (.call 0xABC) deep = .next t) ∧ ∃ t, exec (.move 1 2) deep = .next t := ⟨⟨_, rfl⟩, ⟨_, rfl⟩, ⟨_, rfl⟩⟩

theorem witness_SkipsCompareWithImmediates : deep.reg 1 = 0xFA ∧ deep.reg 1 ≠ 0xFB ∧ deep.pc = 0x0FFE
    ∧ deep.cfg.memorySize ≤ 4096 := by decide

theorem witness_SkipsCompareRegisters : State.reset.reg 1 = State.reset.reg 2 ∧ deep.reg 1 ≠ deep.reg 2
    ∧ (0x5121 : Word).toNat / 4096 = 5 ∧ (0x912F : Word).toNat / 4096 = 9 ∧ (0x912F : Word).toNat % 16 ≠ 0 := by decide

theorem witness_KeySkipsTestTheSnapshot :
    ({ deep with keys := 0x0400 }.keys.getLsbD ((deep.reg 1).toNat % 16) = true)
    ∧ ({ deep with keys := 0xFBFF }.keys.getLsbD ((deep.reg 1).toNat % 16) = false) := by decide

theorem witness_AddImmWrapsWithoutFlag : (0xFF : Byte).toNat = 256 - 1 ∧ 1 ≤ (deep.reg 1).toNat ∧ (14 : Reg) ≠ 15 := by
  decide

theorem witness_AluRegisterNumbers : (14 : Reg) ≠ 15 ∧ (0 : Reg) ≠ 15 := by decide

theorem witness_Register15AsOperandOfFlagWriters : (∃ t, exec (.addReg 15 2) deep = .next t)
    ∧ (∃ t, exec (.addReg 1 15) deep = .next t) ∧ (∃ t, exec (.addReg 15 15) deep = .next t)
    ∧ (∃ t, exec (.subReg 15 2) deep = .next t) ∧ (∃ t, exec (.subReg 1 15) deep = .next t)
    ∧ (∃ t, exec (.subReg 15 15) deep = .next t) ∧ (∃ t, exec (.subRegRev 15 2) deep = .next t)
    ∧ (∃ t, exec (.subRegRev 1 15) deep = .next t) ∧ (∃ t, exec (.subRegRev 15 15) deep = .next t)
    ∧ (∃ t, exec (.shiftRight 15 2) deep = .next t) ∧ (∃ t, exec (.shiftLeft 15 2) deep = .next t)
    ∧ (∃ t, exec (.draw 15 2 3) deep = .next t) ∧ ∃ t, exec (.draw 1 15 3) deep = .next t :=
  ⟨⟨_, rfl⟩, ⟨_, rfl⟩, ⟨_, rfl⟩, ⟨_, rfl⟩, ⟨_, rfl⟩, ⟨_, rfl⟩, ⟨_, rfl⟩, ⟨_, rfl⟩, ⟨_, rfl⟩, ⟨_, rfl⟩, ⟨_, rfl⟩, ⟨_, rfl⟩,
    ⟨_, rfl⟩⟩

theorem witness_RandAndMasksTheRandomByte : (0x0A : Byte) &&& ~~~(0x0F : Byte) = 0 := by decide

theorem witness_DrawSendsTheSpriteRows : (0 : Fin 16).val = 0
    ∧ { deep with I := 0xFFB }.I.toNat + (5 : Fin 16).val ≤ deep.cfg.memorySize := by decide

theorem witness_DrawPastMemoryFails : 0 < (5 : Fin 16).val
    ∧ deep.cfg.memorySize < { start 0xD125 [] with I := 0xFFC }.I.toNat + (5 : Fin 16).val
    ∧ fetch { start 0xD125 [] with I := 0xFFC } = .ok (encode (.draw 1 2 5)) := ⟨by decide, by decide, rfl⟩

theorem witness_LoadDelayReadsTheTimer : ∃ t, exec (.loadDelay 4) deep = .next t := ⟨_, rfl⟩

theorem witness_WaitKeyPollsTheKeyEvent : State.reset.inputs.keyEvent = none
    ∧ { State.reset with inputs := ⟨0, some 0xF, false⟩ }.inputs.keyEvent = some 0xF
    ∧ (∃ t, exec (.waitKey 1) State.reset = .next t) ∧ ∃ u, exec (.waitKey 1) { State.reset with keys := 0x8000 } = .next u :=
  ⟨rfl, rfl, ⟨_, rfl⟩, ⟨_, rfl⟩⟩

theorem witness_WaitKeyHoldsUntilAnEvent : fetch (start 0xF10A []) = .ok (encode (.waitKey 1))
    ∧ (start 0xF10A []).inputs.keyEvent = none ∧ 1 ≤ (start 0xF10A []).schedule.length
    ∧ ∀ m ∈ (start 0xF10A []).schedule, m.inputs.keyEvent = none := ⟨rfl, by decide, by decide, by decide⟩

theorem witness_RunsLeaveMemoryConstant : ∃ t, Sys2Proof.core.run 1 (start 0x8124 [(1, 0xFA), (2, 0x0A)]) = .next t :=
  ⟨_, rfl⟩

/-- For every statement about all instructions whose only hypothesis is `exec i s = .next t`. -/
theorem witness_ExecNext : (∃ t, exec (.call 0xABC) deep = .next t) ∧ (∃ t, exec (.loadAddr 0xFFF) deep = .next t)
    ∧ (∃ t, exec (.draw 1 2 0) deep = .next t) ∧ (∃ t, exec .clearDisplay deep = .next t)
    ∧ (∃ t, exec (.waitKey 1) deep = .next t) ∧ ∃ t, exec (.addReg 1 2) deep = .next t :=
  ⟨⟨_, rfl⟩, ⟨_, rfl⟩, ⟨_, rfl⟩, ⟨_, rfl⟩, ⟨_, rfl⟩, ⟨_, rfl⟩⟩

theorem witness_RegisterWritesFollowTheTable : (∃ t, exec (.addReg 1 2) deep = .next t) ∧ 2 ∉ writeRegs (.addReg 1 2) :=
  ⟨⟨_, rfl⟩, by decide⟩

theorem witness_ResultsDependOnlyOnRegistersRead :
    (∀ r ∈ readRegs (.addReg 1 2), (deep.V.set 3 0x55).get r = deep.reg r) ∧ (deep.V.set 3 0x55).get 3 ≠ deep.reg 3
    ∧ ∃ t, exec (.addReg 1 2) deep = .next t := ⟨by decide, by decide, ⟨_, rfl⟩⟩

theorem witness_EachInputIsReadOnlyByItsOperations : (∃ t, exec (.move 1 2) deep = .next t)
    ∧ (∀ x y n, Instr.move 1 2 ≠ .draw x y n) ∧ (∀ x, Instr.move 1 2 ≠ .loadDelay x ∧ Instr.move 1 2 ≠ .waitKey x)
    ∧ (∀ x, Instr.move 1 2 ≠ .skipKeyPressed x ∧ Instr.move 1 2 ≠ .skipKeyNotPressed x)
    ∧ (∀ x imm, Instr.move 1 2 ≠ .randAnd x imm) ∧ (∀ addr, Instr.move 1 2 ≠ .call addr) ∧ Instr.move 1 2 ≠ .ret
    ∧ (∃ t, exec (.call 0xABC) deep = .next t) ∧ Instr.call 0xABC ≠ .ret
    ∧ (∃ t, exec (.jumpOffset 0xFFF) deep = .next t) ∧ (∀ addr, Instr.jumpOffset 0xFFF ≠ .call addr)
    ∧ ∃ t, exec .ret deep = .next t :=
  ⟨⟨_, rfl⟩, by simp, by simp, by simp, by simp, by simp, by simp, ⟨_, rfl⟩, by simp, ⟨_, rfl⟩, by simp, ⟨_, rfl⟩⟩

theorem witness_EnvironmentActsBetweenStepsOnly : (∃ u, step deep = .next u) ∧ deep.schedule = idle :: []
    ∧ (∃ u, step { deep with schedule := [] } = .next u) := ⟨⟨_, rfl⟩, rfl, ⟨_, rfl⟩⟩

theorem witness_MemoryPrimitives : deep.mem.wf = true ∧ 0xFFF < deep.cfg.memorySize ∧ deep.cfg.memorySize ≤ 0x1000
    ∧ 0xFFE + 1 < deep.cfg.memorySize ∧ deep.cfg.memorySize ≤ 0xFFF + 1 := by decide

theorem witness_LoaderPlacesTheProgram : deep.mem.wf = true
    ∧ { deep with cfg := ⟨16, 12, 1⟩ }.cfg.loadAddress + ([1, 2, 3, 4] : List Byte).length ≤ 16
    ∧ ([1, 2, 3, 4, 5] : List Byte) ≠ []
    ∧ 16 < { deep with cfg := ⟨16, 12, 1⟩ }.cfg.loadAddress + ([1, 2, 3, 4, 5] : List Byte).length := by decide

/-- The parameters at both ends of R6's ranges, for the statements about reset. -/
theorem witness_LegalParameters : Params.wellFormed ⟨2, 0, 1⟩ = true ∧ Params.wellFormed ⟨4096, 4094, 1⟩ = true
    ∧ Params.wellFormed .default = true := by decide

theorem deep_slots : ∀ v ∈ deep.stack, v.toNat ≤ 0x1000 := fun v hv => by
  rw [List.eq_of_mem_replicate (n := 16) (a := 0) hv]; decide

theorem deep_inv : deep.Inv :=
  ⟨by decide, by decide, by decide, by decide, by decide, by decide, deep_slots, by decide⟩

theorem witness_StepKeepsTheInvariant : deep.Inv ∧ (∃ t, step deep = .next t) ∧ ∃ t, loadProgram [0x12, 0x00] deep = .ok t :=
  ⟨deep_inv, ⟨_, rfl⟩, ⟨_, rfl⟩⟩

theorem witness_PcNeverWraps : deep.Inv ∧ (∃ t, step deep = .next t) ∧ { deep with pc := 0x10FE }.Inv
    ∧ deep.cfg.memorySize - 1 ≤ { deep with pc := 0x10FE }.pc.toNat :=
  ⟨deep_inv, ⟨_, rfl⟩, ⟨by decide, by decide, by decide, by decide, by decide, by decide, deep_slots, by decide⟩, by decide⟩

end Sys2Proof.Tests
end

section
/-! PROOF. What a completed instruction can do to the state, said once for all 27 instructions, and what follows from it:
the frames of `exec`, the invariant of a run, the bounds of `pc` (10_state.md). -/

namespace Sys2Proof.Machine

/-! ## The effects of a completed instruction -/

/-- The values `pc` can get from an instruction other than return: unmoved, after the next instruction or a skip, or a
target the instruction word names (40_step_and_dispatch.md R75). -/
inductive PcTarget (s : State) : Word → Prop where
  | stay : PcTarget s s.pc
  | next : PcTarget s (s.pc + 2)
  | skip : PcTarget s (s.pc + 4)
  | absolute (addr : BitVec 12) : PcTarget s (addrOperand addr)
  | offset (addr : BitVec 12) : PcTarget s (offsetTarget s addr)

/-- What an instruction that completes from `s` can answer: an update of registers, `pc` and outputs alone, or one of the
three instructions that write `I` or the stack. -/
inductive ExecEffect (s : State) : Instr → State → Prop where
  | plain {i : Instr} (V' : Vector Byte 16) {p : Word} (o : StepOutputs) (hp : PcTarget s p)
      (hV : ∀ r, r ∉ writeRegs i → V'.get r = s.reg r) : ExecEffect s i { s with V := V', pc := p, out := o }
  | loadAddr (addr : BitVec 12) : ExecEffect s (.loadAddr addr) (s.setI (addrOperand addr)).advance
  | call (addr : BitVec 12) (hsp : s.sp < s.cfg.stackDepth) : ExecEffect s (.call addr)
      (State.goto { s with stack := s.stack.set s.sp (s.pc + 2), sp := s.sp + 1 } (addrOperand addr))
  | ret (hsp : 0 < s.sp) : ExecEffect s .ret (State.goto { s with sp := s.sp - 1 } (s.slot s.sp))

theorem skipIf_pcTarget (s : State) (c : Bool) : PcTarget s (s.skipIf c).pc := by
  cases c
  · exact .next
  · exact .skip

/-- An instruction that writes no register and jumps or skips. -/
theorem ExecEffect.ofGoto {s : State} {i : Instr} {p : Word} (hp : PcTarget s p) : ExecEffect s i (s.goto p) :=
  .plain s.V .quiet hp fun _ _ => rfl

theorem ExecEffect.ofSkipIf {s : State} {i : Instr} (c : Bool) : ExecEffect s i (s.skipIf c) :=
  .ofGoto (skipIf_pcTarget s c)

/-- An instruction that writes the registers in `changed` and advances. -/
theorem ExecEffect.ofFrame {s : State} {i : Instr} {V' : Vector Byte 16} {o : StepOutputs}
    (h : Frame (writeRegs i) s { s with V := V', pc := s.pc + 2, out := o }) :
    ExecEffect s i { s with V := V', pc := s.pc + 2, out := o } :=
  .plain V' o .next h.regs

/-- Everything a completed instruction can do. -/
theorem exec_effect {i : Instr} {s t : State} (h : exec i s = .next t) : ExecEffect s i t := by
  cases i with
  | clearDisplay => cases h; exact .plain s.V _ .next fun _ _ => rfl
  | jump addr => cases h; exact .ofGoto (.absolute addr)
  | jumpOffset addr => cases h; exact .ofGoto (.offset addr)
  | skipEqImm | skipNeImm | skipEqReg | skipNeReg | skipKeyPressed | skipKeyNotPressed => cases h; exact .ofSkipIf _
  | loadImm | addImm | move | orReg | andReg | xorReg | randAnd | loadDelay =>
    cases h; exact .ofFrame (frame_setReg_advance s _ _)
  | addReg | subReg | subRegRev => cases h; exact .ofFrame (frame_setReg_setFlag_advance s _ _ _)
  | shiftRight | shiftLeft => cases h; exact .ofFrame (frame_setFlag_setReg_advance s _ _ _)
  | loadAddr addr => cases h; exact .loadAddr addr
  | ret =>
    rcases exec_ret_cases s with ⟨-, e⟩ | ⟨hsp, e⟩ <;> cases h.symm.trans e
    exact .ret hsp
  | call addr =>
    rcases exec_call_cases addr s with ⟨-, e⟩ | ⟨hsp, e⟩ <;> cases h.symm.trans e
    exact .call addr hsp
  | draw x y n =>
    rcases exec_draw_cases x y n s with ⟨-, -, e⟩ | ⟨-, e⟩ <;> cases h.symm.trans e
    exact .ofFrame (frame_setFlag_advance_send s _ _)
  | waitKey x =>
    rcases exec_waitKey_cases x s with ⟨-, e⟩ | ⟨k, -, e⟩ <;> cases h.symm.trans e
    · exact .plain s.V _ .stay fun _ _ => rfl
    · exact .ofFrame (frame_setReg_advance s _ _)

/-! ## Frames of all instructions -/

/-- Settles O18: of the effects, return lowers `sp` by one and keeps the slots, call raises it by one, the others keep both. -/
theorem onlyCallAndReturnTouchTheStack : Obligations.OnlyCallAndReturnTouchTheStack := by
  intro i s t h
  cases exec_effect h with
  | plain | loadAddr => exact .inl ⟨rfl, rfl⟩
  | ret hsp => exact .inr (.inl ⟨rfl, Nat.succ_pred_eq_of_pos hsp, rfl⟩)
  | call addr => exact .inr (.inr ⟨⟨addr, rfl⟩, rfl⟩)

/-- Settles O38: no effect touches a field outside CORE's registers and stack. -/
theorem execLeavesSurroundingsAndMemory : Obligations.ExecLeavesSurroundingsAndMemory := by
  intro i s t h
  cases exec_effect h with
  | plain | loadAddr | ret | call => exact ⟨sameSurroundings_refl s, rfl⟩

@[simp] theorem addrOperand_toNat (addr : BitVec 12) : (addrOperand addr).toNat = addr.toNat := by
  simp only [addrOperand, BitVec.toNat_setWidth]; omega

/-- Settles O40: of the effects only load-addr's is an update of `I`. -/
theorem onlyLoadAddrWritesI : Obligations.OnlyLoadAddrWritesI := by
  intro i s t h
  cases exec_effect h with
  | plain | ret | call => exact .inl rfl
  | loadAddr addr => exact .inr ⟨addr, rfl, addrOperand_toNat addr⟩

/-- Settles O41: the plain effects carry it, the other three write no data register. -/
theorem registerWritesFollowTheTable : Obligations.RegisterWritesFollowTheTable := by
  intro i s t h r hr
  cases exec_effect h with
  | plain V' o hp hV => exact hV r hr
  | loadAddr | ret | call => rfl

/-! ## Reset (10_state.md R32) -/

/-- The constraints of R6 as facts. -/
theorem params_wellFormed_iff (p : Params) : p.wellFormed = true ↔
    2 ≤ p.memorySize ∧ p.memorySize ≤ 4096 ∧ p.loadAddress + 1 < p.memorySize ∧ 1 ≤ p.stackDepth := by
  simp [Params.wellFormed, and_assoc]

theorem resetWith_pc_toNat {p : Params} (keys : BitVec 16) (inputs : StepInputs) (hp : p.wellFormed = true) :
    (State.resetWith p keys inputs).pc.toNat = p.loadAddress := by
  obtain ⟨-, hsize, hload, -⟩ := (params_wellFormed_iff p).mp hp
  exact Nat.mod_eq_of_lt (by omega)

theorem resetWith_slot (p : Params) (keys : BitVec 16) (inputs : StepInputs) (k : Nat) :
    (State.resetWith p keys inputs).slot k = 0 := by
  simp only [State.slot, State.resetWith, List.getD_eq_getElem?_getD, List.getElem?_replicate]
  split
  · rfl
  · split <;> rfl

/-- Settles O52: the fields of `State.resetWith`, with the load address inside 16 bits by R6. -/
theorem resetLeavesZeros : Obligations.ResetLeavesZeros :=
  ⟨fun p keys inputs hp => ⟨fun _ => rfl, reg_resetWith p keys inputs, resetWith_pc_toNat keys inputs hp, rfl, rfl, rfl, rfl,
    resetWith_slot p keys inputs⟩, 0, ⟨0, none, false⟩, rfl, rfl⟩

/-- Settles O54, the base case of the invariant. -/
theorem resetSatisfiesTheInvariant : Obligations.ResetSatisfiesTheInvariant := by
  intro p keys inputs hp
  obtain ⟨-, hsize, hload, -⟩ := (params_wellFormed_iff p).mp hp
  exact {
    params := hp
    memCanonical := rfl
    memInside := rfl
    iRange := Nat.zero_le _
    spRange := Nat.zero_le _
    stackLength := List.length_replicate
    slotRange := fun v hv => by rw [List.eq_of_mem_replicate hv]; exact Nat.zero_le _
    pcRange := by rw [resetWith_pc_toNat keys inputs hp]; omega }

/-! ## The invariant is kept -/

/-- A fetch needs two bytes, so it succeeds at 0x0FFE at most (40_step_and_dispatch.md R69). -/
theorem State.Inv.pc_le_of_fetch {s : State} {w : Word} (hs : s.Inv) (hf : fetch s = .ok w) : s.pc.toNat ≤ 0x0FFE := by
  obtain ⟨-, hsize, -⟩ := (params_wellFormed_iff s.cfg).mp hs.params
  have := (fetch_ok_iff.mp hf).1
  omega

/-- From a fetchable `pc` neither addition carries out of 16 bits (10_state.md R21). -/
theorem pc_add_two_toNat {pc : Word} (h : pc.toNat ≤ 0x0FFE) : (pc + 2).toNat = pc.toNat + 2 :=
  BitVec.toNat_add_of_lt (Nat.lt_of_le_of_lt (Nat.add_le_add_right h 2) (by decide))

theorem pc_add_four_toNat {pc : Word} (h : pc.toNat ≤ 0x0FFE) : (pc + 4).toNat = pc.toNat + 4 :=
  BitVec.toNat_add_of_lt (Nat.lt_of_le_of_lt (Nat.add_le_add_right h 4) (by decide))

/-- The largest of these values is jump-offset's 0xFF + 0xFFF (10_state.md R21). -/
theorem PcTarget.toNat_le {s : State} {p : Word} (hp : PcTarget s p) (hpc : s.pc.toNat ≤ 0x0FFE) : p.toNat ≤ 0x10FE := by
  cases hp with
  | stay => omega
  | next => rw [pc_add_two_toNat hpc]; omega
  | skip => rw [pc_add_four_toNat hpc]; omega
  | absolute addr => rw [addrOperand_toNat]; omega
  | offset addr =>
    simp only [offsetTarget, BitVec.toNat_add, BitVec.toNat_setWidth, addrOperand_toNat]
    omega

/-- A slot in use holds one of the stack's entries; any other number reads 0. -/
theorem State.Inv.slot_toNat_le {s : State} (hs : s.Inv) (k : Nat) : (s.slot k).toNat ≤ 0x1000 := by
  unfold State.slot
  split
  · decide
  · rw [List.getD_eq_getElem?_getD]
    cases hv : s.stack[k - 1]? with
    | none => decide
    | some v => exact hs.slotRange v (List.mem_of_getElem? hv)

/-- An instruction that was fetched keeps the invariant. -/
theorem exec_keeps_inv {i : Instr} {s t : State} (hs : s.Inv) (hpc : s.pc.toNat ≤ 0x0FFE) (h : exec i s = .next t) :
    t.Inv := by
  cases exec_effect h with
  | plain V' o hp _ => exact { hs with pcRange := hp.toNat_le hpc }
  | loadAddr addr =>
    exact { hs with
      iRange := by rw [State.advance_I, State.setI_I, addrOperand_toNat]; omega
      pcRange := PcTarget.next.toNat_le hpc }
  | ret hsp =>
    exact { hs with
      spRange := (Nat.sub_le _ _).trans hs.spRange
      pcRange := (hs.slot_toNat_le s.sp).trans (by decide) }
  | call addr hsp =>
    have hpush : (s.pc + 2).toNat ≤ 0x1000 := by rw [pc_add_two_toNat hpc]; omega
    exact { hs with
      spRange := hsp
      stackLength := List.length_set.trans hs.stackLength
      slotRange := fun v hv => (List.mem_or_eq_of_mem_set hv).elim (hs.slotRange v) fun e => e ▸ hpush
      pcRange := (PcTarget.absolute (s := s) addr).toNat_le hpc }

/-- The invariant says nothing of what the environment moves. -/
theorem betweenSteps_keeps_inv {s : State} (hs : s.Inv) : (betweenSteps s).Inv := { hs with }

theorem step_keeps_inv {s t : State} (hs : s.Inv) (h : step s = .next t) : t.Inv := by
  obtain ⟨w, i, u, hf, -, hx, rfl⟩ := step_next_inv h
  exact betweenSteps_keeps_inv (exec_keeps_inv hs (hs.pc_le_of_fetch hf) hx)

/-- Loading bytes changes memory and nothing else. -/
theorem loadBytesAt_frame {bytes : List Byte} {s t : State} {a : Nat} (h : loadBytesAt s a bytes = .ok t) :
    t = { s with mem := t.mem } := by
  induction bytes generalizing s a with
  | nil => cases h; rfl
  | cons b bs ih =>
    simp only [loadBytesAt] at h
    split at h
    · cases h
    · next u hu =>
      obtain ⟨-, rfl⟩ := memWrite1_ok.mp hu
      exact (ih h :)

theorem loadProgram_keeps_inv {s t : State} {bytes : List Byte} (hs : s.Inv) (h : loadProgram bytes s = .ok t) : t.Inv := by
  obtain ⟨hwf, hin⟩ := loadBytesAt_keeps_form h hs.memCanonical hs.memInside
  rw [loadBytesAt_frame h] at hwf hin ⊢
  exact { hs with memCanonical := hwf, memInside := hin }

/-- Settles O55: what was fetched keeps the invariant, and so do the environment's move and the loader. -/
theorem stepKeepsTheInvariant : Obligations.StepKeepsTheInvariant :=
  fun _ hs => ⟨fun _ => step_keeps_inv hs, fun _ _ => loadProgram_keeps_inv hs⟩

/-- Settles O56: a completed step was fetched, so `pc` had room for both additions; at the last byte the fetch fails. -/
theorem pcNeverWraps : Obligations.PcNeverWraps := by
  intro s hs
  refine ⟨fun t h => ?_, fun h => ?_⟩
  · obtain ⟨w, -, -, hf, -⟩ := step_next_inv h
    have hpc := hs.pc_le_of_fetch hf
    exact ⟨hpc, (step_keeps_inv hs h).pcRange, pc_add_two_toNat hpc, pc_add_four_toNat hpc⟩
  · have hf : fetch s = .error (.addressOutOfBounds (.addr s.pc.toNat)) := by rw [fetch_eq, if_pos (by omega)]
    simp only [step, hf]

end Sys2Proof.Machine
end

section
/-! PROOF. What instructions read: two states that agree on what an instruction reads get the same result from it
(10_state.md R15 to R17, R22 to R28, R30). -/

namespace Sys2Proof.Machine

/-! ## The four instructions with more than one outcome, as equations -/

theorem exec_ret_eq (s : State) : exec .ret s = if s.sp = 0 then .fault (.addressOutOfBounds .stack)
    else .next (State.goto { s with sp := s.sp - 1 } (s.slot s.sp)) := by
  rcases exec_ret_cases s with ⟨h, e⟩ | ⟨h, e⟩
  · rw [e, if_pos h]
  · rw [e, if_neg (by omega)]

theorem exec_call_eq (addr : BitVec 12) (s : State) : exec (.call addr) s =
    if s.cfg.stackDepth ≤ s.sp then .fault (.addressOutOfBounds .stack)
    else .next (State.goto { s with stack := s.stack.set s.sp (s.pc + 2), sp := s.sp + 1 } (addrOperand addr)) := by
  rcases exec_call_cases addr s with ⟨h, e⟩ | ⟨h, e⟩
  · rw [e, if_pos h]
  · rw [e, if_neg (by omega)]

theorem exec_draw_eq (x y : Reg) (n : Fin 16) (s : State) : exec (.draw x y n) s =
    if 0 < n.val ∧ s.cfg.memorySize < s.I.toNat + n.val then .fault (.addressOutOfBounds (.addr (s.I.toNat + n.val - 1)))
    else .next ((s.setFlag s.inputs.dispHit).advance.send (.draw (s.reg x) (s.reg y)
      ((List.range n.val).map (fun k => s.mem.byteAt (s.I.toNat + k))))) := by
  rcases exec_draw_cases x y n s with ⟨h, h', e⟩ | ⟨h, e⟩
  · rw [e, if_pos ⟨h, h'⟩]
  · rw [e, if_neg (by omega)]

theorem exec_waitKey_eq (x : Reg) (s : State) : exec (.waitKey x) s =
    .next (s.inputs.keyEvent.elim s.stall fun k => (s.setReg x (keyValue k)).advance) := by
  rcases exec_waitKey_cases x s with ⟨h, e⟩ | ⟨k, h, e⟩ <;> rw [e, h] <;> rfl

theorem ite_fault_eq_next_iff {c : Prop} [Decidable c] {f : Fault} {u t : State} :
    (if c then .fault f else .next u : Host.Outcome State Fault Refusal) = .next t ↔ ¬ c ∧ u = t := by
  split
  · next hc => exact ⟨nofun, fun e => absurd hc e.1⟩
  · next hc => exact ⟨fun e => ⟨hc, Host.Outcome.next.inj e⟩, fun e => congrArg _ e.2⟩

/-- When return completes, and with what. -/
theorem exec_ret_next_iff {s t : State} : exec .ret s = .next t ↔
    s.sp ≠ 0 ∧ State.goto { s with sp := s.sp - 1 } (s.slot s.sp) = t := by
  rw [exec_ret_eq, ite_fault_eq_next_iff]

/-- When call completes, and with what. -/
theorem exec_call_next_iff {addr : BitVec 12} {s t : State} : exec (.call addr) s = .next t ↔
    ¬ s.cfg.stackDepth ≤ s.sp ∧
      State.goto { s with stack := s.stack.set s.sp (s.pc + 2), sp := s.sp + 1 } (addrOperand addr) = t := by
  rw [exec_call_eq, ite_fault_eq_next_iff]

/-- When draw completes, and with what. -/
theorem exec_draw_next_iff {x y : Reg} {n : Fin 16} {s t : State} : exec (.draw x y n) s = .next t ↔
    ¬ (0 < n.val ∧ s.cfg.memorySize < s.I.toNat + n.val) ∧
      (s.setFlag s.inputs.dispHit).advance.send (.draw (s.reg x) (s.reg y)
        ((List.range n.val).map (fun k => s.mem.byteAt (s.I.toNat + k)))) = t := by
  rw [exec_draw_eq, ite_fault_eq_next_iff]

/-! ## The data registers read (10_state.md R15) -/

/-- `u`, reached from `s'`, is as `t`, reached from `s`, but for data registers that both left alone. -/
structure SameButLeftAlone (s s' t u : State) : Prop where
  rest : u = { t with V := u.V }
  regs : ∀ r, u.reg r = t.reg r ∨ (t.reg r = s.reg r ∧ u.reg r = s'.reg r)

/-- Two outcomes alike in that sense: the same fault, or next states alike. -/
inductive SameOutcome (s s' : State) : Host.Outcome State Fault Refusal → Host.Outcome State Fault Refusal → Prop where
  | next {t u : State} (h : SameButLeftAlone s s' t u) : SameOutcome s s' (.next t) (.next u)
  | fault (f : Fault) : SameOutcome s s' (.fault f) (.fault f)

namespace SameButLeftAlone

variable {s s' t u : State}

theorem start (s : State) (V' : Vector Byte 16) : SameButLeftAlone s { s with V := V' } s { s with V := V' } :=
  ⟨rfl, fun _ => .inr ⟨rfl, rfl⟩⟩

/-- An update that neither reads nor writes data registers. -/
theorem map (h : SameButLeftAlone s s' t u) (f : State → State) (hf : ∀ a V', f { a with V := V' } = { f a with V := V' }) :
    SameButLeftAlone s s' (f t) (f u) := by
  have hV : ∀ a, (f a).V = a.V := fun a => by
    have hfa := congrArg State.V (hf a a.V)
    exact hfa
  refine ⟨?_, fun r => ?_⟩
  · rw [hV, ← hf, ← h.rest]
  · simpa only [State.reg, hV] using h.regs r

/-- The same value written to the same register. -/
theorem setReg (h : SameButLeftAlone s s' t u) (x : Reg) (v : Byte) :
    SameButLeftAlone s s' (t.setReg x v) (u.setReg x v) := by
  refine ⟨congrArg (State.setReg · x v) h.rest, fun r => ?_⟩
  rw [reg_setReg, reg_setReg]
  split
  · exact .inl rfl
  · exact h.regs r

theorem advance (h : SameButLeftAlone s s' t u) : SameButLeftAlone s s' t.advance u.advance :=
  h.map State.advance fun _ _ => rfl

theorem goto (h : SameButLeftAlone s s' t u) (p : Word) : SameButLeftAlone s s' (t.goto p) (u.goto p) :=
  h.map (State.goto · p) fun _ _ => rfl

theorem skipIf (h : SameButLeftAlone s s' t u) (c : Bool) : SameButLeftAlone s s' (t.skipIf c) (u.skipIf c) :=
  h.map (State.skipIf · c) fun _ _ => rfl

theorem send (h : SameButLeftAlone s s' t u) (c : DispCmd) : SameButLeftAlone s s' (t.send c) (u.send c) :=
  h.map (State.send · c) fun _ _ => rfl

end SameButLeftAlone

/-- With the registers of R15's column "reads" as before, every instruction has the same outcome. -/
theorem exec_sameOutcome (i : Instr) (s : State) (V' : Vector Byte 16)
    (hr : ∀ r ∈ readRegs i, State.reg { s with V := V' } r = s.reg r) :
    SameOutcome s { s with V := V' } (exec i s) (exec i { s with V := V' }) := by
  have h := SameButLeftAlone.start s V'
  cases i with
  | clearDisplay => exact .next (h.advance.send .clear)
  | jump addr => exact .next (h.goto _)
  | jumpOffset addr =>
    simp only [readRegs, List.forall_mem_singleton] at hr
    simp only [exec_jumpOffset, offsetTarget, hr]
    exact .next (h.goto _)
  | skipEqImm | skipNeImm | skipEqReg | skipNeReg | skipKeyPressed | skipKeyNotPressed =>
    simp only [readRegs, List.forall_mem_cons] at hr
    simp only [exec_skipEqImm, exec_skipNeImm, exec_skipEqReg, exec_skipNeReg, exec_skipKeyPressed,
      exec_skipKeyNotPressed, keyPressed, hr]
    exact .next (h.skipIf _)
  | loadImm | addImm | move | orReg | andReg | xorReg | randAnd | loadDelay =>
    simp only [readRegs, List.forall_mem_cons] at hr
    simp only [exec_loadImm, exec_addImm, exec_move, exec_orReg, exec_andReg, exec_xorReg, exec_randAnd,
      exec_loadDelay, hr]
    exact .next (h.setReg _ _).advance
  | addReg | subReg | subRegRev | shiftRight | shiftLeft =>
    simp only [readRegs, List.forall_mem_cons] at hr
    simp only [exec_addReg, exec_subReg, exec_subRegRev, exec_shiftRight, exec_shiftLeft, hr]
    exact .next ((h.setReg _ _).setReg _ _).advance
  | loadAddr addr => exact .next (h.map (fun a => (a.setI (addrOperand addr)).advance) fun _ _ => rfl)
  | ret =>
    simp only [exec_ret_eq]
    split
    · exact .fault _
    · exact .next (h.map (fun a => State.goto { a with sp := s.sp - 1 } (s.slot s.sp)) fun _ _ => rfl)
  | call addr =>
    simp only [exec_call_eq]
    split
    · exact .fault _
    · exact .next (h.map (fun a => State.goto { a with stack := s.stack.set s.sp (s.pc + 2), sp := s.sp + 1 }
        (addrOperand addr)) fun _ _ => rfl)
  | draw x y n =>
    simp only [readRegs, List.forall_mem_cons] at hr
    simp only [exec_draw_eq, hr]
    split
    · exact .fault _
    · exact .next ((h.setReg _ _).advance.send _)
  | waitKey x =>
    rw [exec_waitKey_eq, exec_waitKey_eq]
    cases s.inputs.keyEvent with
    | none => exact .next (h.map State.stall fun _ _ => rfl)
    | some k => exact .next (h.setReg x (keyValue k)).advance

/-- Settles O42: both outcomes are the same fault, or next states alike but for registers left alone. -/
theorem resultsDependOnlyOnRegistersRead : Obligations.ResultsDependOnlyOnRegistersRead := by
  intro i s V' hr
  have hsame := exec_sameOutcome i s V' hr
  generalize exec i s = a at hsame ⊢
  generalize exec i { s with V := V' } = b at hsame ⊢
  cases hsame with
  | fault f => exact ⟨fun _ => Iff.rfl, nofun⟩
  | @next t u h =>
    refine ⟨fun f => iff_of_false nofun nofun, fun t' ht => ?_⟩
    cases ht
    refine ⟨u, rfl, ?_⟩
    obtain ⟨hrest, hregs⟩ := h
    rw [hrest] at hregs ⊢
    exact ⟨rfl, rfl, rfl, rfl, rfl, rfl, sameSurroundings_refl t, hregs⟩

/-! ## The flag register (10_state.md R17) -/

theorem flagByte_eq_zero_or_one (b : Bool) : flagByte b = 0 ∨ flagByte b = 1 := by
  cases b
  · exact .inl rfl
  · exact .inr rfl

/-- Settles O44: only an instruction whose table entry lists register 15 can change it, as the flag or as the destination. -/
theorem flagRegisterChangesOnlyAsR17Says : Obligations.FlagRegisterChangesOnlyAsR17Says := by
  intro i s t h
  by_cases hw : (15 : Reg) ∈ writeRegs i
  swap
  · exact .inl (registerWritesFollowTheTable i s t h 15 hw)
  right
  cases i with
  | clearDisplay | ret | jump | call | skipEqImm | skipNeImm | skipEqReg | skipNeReg | loadAddr | jumpOffset
  | skipKeyPressed | skipKeyNotPressed => exact absurd hw List.not_mem_nil
  | loadImm x | addImm x | move x | orReg x | andReg x | xorReg x | randAnd x | loadDelay x | waitKey x =>
    right
    obtain rfl := List.mem_singleton.mp hw
    simp
  | addReg x y | subReg x y | subRegRev x y =>
    left
    cases h
    rw [reg_advance, reg_setFlag, if_pos rfl]
    exact ⟨flagByte_eq_zero_or_one _, x, y, 0, by simp⟩
  | draw x y n =>
    left
    obtain ⟨-, rfl⟩ := exec_draw_next_iff.mp h
    rw [reg_send, reg_advance, reg_setFlag, if_pos rfl]
    exact ⟨flagByte_eq_zero_or_one _, x, y, n, by simp⟩
  | shiftRight x y | shiftLeft x y =>
    by_cases hx : x = 15
    · subst hx
      exact .inr ⟨y, 0, by simp⟩
    · left
      cases h
      rw [reg_advance, reg_setReg_ne _ _ (Ne.symm hx), reg_setFlag, if_pos rfl]
      exact ⟨flagByte_eq_zero_or_one _, x, y, 0, by simp [hx]⟩

/-! ## The other inputs (10_state.md R22 to R28, R30) -/

/-- `s` in the surroundings of `e`: what no instruction writes and a collaborator supplies is `e`'s. -/
def State.surroundedBy (s e : State) : State :=
  { s with mem := e.mem, DT := e.DT, ST := e.ST, keys := e.keys, inputs := e.inputs }

/-- `e` agrees with `s` on the surroundings that instruction `i` reads. -/
structure AgreeOnRead (i : Instr) (s e : State) : Prop where
  mem : (∃ x y n, i = .draw x y n) → e.mem = s.mem := by intro _; rfl
  dispHit : (∃ x y n, i = .draw x y n) → e.inputs.dispHit = s.inputs.dispHit := by intro _; rfl
  delay : (∃ x, i = .loadDelay x) → e.DT = s.DT := by intro _; rfl
  keys : (∃ x, i = .skipKeyPressed x ∨ i = .skipKeyNotPressed x) → e.keys = s.keys := by intro _; rfl
  randByte : (∃ x imm, i = .randAnd x imm) → e.inputs.randByte = s.inputs.randByte := by intro _; rfl
  keyEvent : (∃ x, i = .waitKey x) → e.inputs.keyEvent = s.inputs.keyEvent := by intro _; rfl

/-- In other surroundings that agree on what it reads, an instruction completes in the same way. -/
theorem exec_surroundedBy {i : Instr} {s t e : State} (h : exec i s = .next t) (he : AgreeOnRead i s e) :
    exec i (s.surroundedBy e) = .next (t.surroundedBy e) := by
  cases i with
  | ret =>
    obtain ⟨hsp, rfl⟩ := exec_ret_next_iff.mp h
    exact exec_ret_next_iff.mpr ⟨hsp, rfl⟩
  | call addr =>
    obtain ⟨hsp, rfl⟩ := exec_call_next_iff.mp h
    exact exec_call_next_iff.mpr ⟨hsp, rfl⟩
  | draw x y n =>
    obtain ⟨hrows, rfl⟩ := exec_draw_next_iff.mp h
    rw [← he.mem ⟨x, y, n, rfl⟩, ← he.dispHit ⟨x, y, n, rfl⟩]
    exact exec_draw_next_iff.mpr ⟨hrows, rfl⟩
  | waitKey x =>
    rw [exec_waitKey_eq] at h ⊢
    cases h
    simp only [State.surroundedBy, he.keyEvent ⟨x, rfl⟩]
    cases s.inputs.keyEvent <;> rfl
  | skipKeyPressed x =>
    cases h
    simp only [exec_skipKeyPressed, keyPressed, ← he.keys ⟨x, .inl rfl⟩]
    rfl
  | skipKeyNotPressed x =>
    cases h
    simp only [exec_skipKeyNotPressed, keyPressed, ← he.keys ⟨x, .inr rfl⟩]
    rfl
  | loadDelay x => cases h; rw [← he.delay ⟨x, rfl⟩]; rfl
  | randAnd x imm => cases h; rw [← he.randByte ⟨x, imm, rfl⟩]; rfl
  | _ => cases h; rfl

/-- A completed instruction stays in its surroundings. -/
theorem exec_keeps_surroundings {i : Instr} {s t : State} (h : exec i s = .next t) : t = t.surroundedBy s := by
  cases exec_effect h with
  | plain | loadAddr | ret | call => rfl

/-- Only draw reads `I`: with `a` there the other instructions differ in nothing but what they leave in `I`. -/
theorem exec_with_I {i : Instr} {s t : State} (h : exec i s = .next t) (hi : ∀ x y n, i ≠ .draw x y n) (a : Word) :
    ∃ a', exec i { s with I := a } = .next { t with I := a' } := by
  cases i with
  | ret =>
    obtain ⟨hsp, rfl⟩ := exec_ret_next_iff.mp h
    exact ⟨a, exec_ret_next_iff.mpr ⟨hsp, rfl⟩⟩
  | call addr =>
    obtain ⟨hsp, rfl⟩ := exec_call_next_iff.mp h
    exact ⟨a, exec_call_next_iff.mpr ⟨hsp, rfl⟩⟩
  | draw x y n => exact absurd rfl (hi x y n)
  | waitKey x =>
    rw [exec_waitKey_eq] at h ⊢
    cases h
    exact ⟨a, by cases s.inputs.keyEvent <;> rfl⟩
  | loadAddr addr => cases h; exact ⟨addrOperand addr, rfl⟩
  | _ => cases h; exact ⟨a, rfl⟩

/-- The stack stays as it was under every instruction but call and return (10_state.md R23, R25). -/
theorem exec_keeps_stack {i : Instr} {s t : State} (h : exec i s = .next t) (hcall : ∀ addr, i ≠ .call addr)
    (hret : i ≠ .ret) : t.sp = s.sp ∧ t.stack = s.stack := by
  rcases onlyCallAndReturnTouchTheStack i s t h with hs | ⟨hi, -⟩ | ⟨⟨addr, hi⟩, -⟩
  · exact hs
  · exact absurd hi hret
  · exact absurd hi (hcall addr)

/-- Only call and return read `sp`; of the others none reads the stack. -/
theorem exec_with_stack {i : Instr} {s t : State} (h : exec i s = .next t) (hcall : ∀ addr, i ≠ .call addr)
    (hret : i ≠ .ret) (n : Nat) (k : List Word) :
    exec i { s with sp := n, stack := k } = .next { t with sp := n, stack := k } := by
  cases i with
  | ret => exact absurd rfl hret
  | call addr => exact absurd rfl (hcall addr)
  | draw x y n =>
    obtain ⟨hrows, rfl⟩ := exec_draw_next_iff.mp h
    exact exec_draw_next_iff.mpr ⟨hrows, rfl⟩
  | waitKey x =>
    rw [exec_waitKey_eq] at h ⊢
    cases h
    cases s.inputs.keyEvent <;> rfl
  | _ => cases h; rfl

theorem exec_with_sp {i : Instr} {s t : State} (h : exec i s = .next t) (hcall : ∀ addr, i ≠ .call addr)
    (hret : i ≠ .ret) (n : Nat) : exec i { s with sp := n } = .next { t with sp := n } :=
  (exec_with_stack h hcall hret n s.stack).trans (by rw [← (exec_keeps_stack h hcall hret).2])

/-- From the old `pc` an instruction other than call makes the next `pc` alone, and a jump or return does not read it. -/
theorem exec_with_pc {i : Instr} {s t : State} (h : exec i s = .next t) (hcall : ∀ addr, i ≠ .call addr) (p : Word) :
    ∃ u, exec i { s with pc := p } = .next u ∧ u = { t with pc := u.pc }
      ∧ (((∃ addr, i = .jump addr ∨ i = .jumpOffset addr) ∨ i = .ret) → u.pc = t.pc) := by
  cases i with
  | jump | jumpOffset => cases h; exact ⟨_, rfl, rfl, fun _ => rfl⟩
  | ret =>
    obtain ⟨hsp, rfl⟩ := exec_ret_next_iff.mp h
    exact ⟨_, exec_ret_next_iff.mpr ⟨hsp, rfl⟩, rfl, fun _ => rfl⟩
  | call addr => exact absurd rfl (hcall addr)
  | draw x y n =>
    obtain ⟨hrows, rfl⟩ := exec_draw_next_iff.mp h
    exact ⟨_, exec_draw_next_iff.mpr ⟨hrows, rfl⟩, rfl, by simp⟩
  | waitKey x =>
    rw [exec_waitKey_eq] at h
    cases h
    refine ⟨_, exec_waitKey_eq x _, ?_, by simp⟩
    cases s.inputs.keyEvent <;> rfl
  | _ => cases h; exact ⟨_, rfl, rfl, by simp⟩

/-- Another stack under an instruction other than return: call puts its return address there too, the others keep it. -/
theorem exec_with_slots {i : Instr} {s t : State} (h : exec i s = .next t) (hret : i ≠ .ret) (k : List Word) :
    ∃ u, exec i { s with stack := k } = .next u ∧ u = { t with stack := u.stack }
      ∧ ((∀ addr, i ≠ .call addr) → u.stack = k) := by
  by_cases hcall : ∃ addr, i = .call addr
  · obtain ⟨addr, rfl⟩ := hcall
    obtain ⟨hsp, rfl⟩ := exec_call_next_iff.mp h
    exact ⟨_, exec_call_next_iff.mpr ⟨hsp, rfl⟩, rfl, fun hne => absurd rfl (hne addr)⟩
  · have hcall' : ∀ addr, i ≠ .call addr := fun addr e => hcall ⟨addr, e⟩
    refine ⟨_, exec_with_stack h hcall' hret s.sp k, ?_, fun _ => rfl⟩
    rw [← (exec_keeps_stack h hcall' hret).1]

/-- Settles O46: the surroundings clauses are one lemma for each of their fields; `I`, `sp`, the stack and `pc`,
which instructions also write, have a lemma each. -/
theorem eachInputIsReadOnlyByItsOperations : Obligations.EachInputIsReadOnlyByItsOperations := by
  intro i s t h
  obtain ⟨r, rfl⟩ : ∃ r : State, t = r.surroundedBy s := ⟨t, exec_keeps_surroundings h⟩
  refine ⟨fun hdraw => ⟨fun a => ?_, fun m => ?_, fun b => ?_⟩, fun hdelay v => ?_, fun v => ?_, fun hskip k => ?_,
    fun hrand v => ?_, fun hwait e => ?_, exec_with_sp h, exec_with_slots h, exec_with_pc h⟩
  · obtain ⟨a', hu⟩ := exec_with_I h hdraw a
    exact ⟨_, hu, rfl, rfl, rfl, rfl, rfl, rfl⟩
  · exact exec_surroundedBy (e := { s with mem := m }) h { mem := fun ⟨x, y, n, hi⟩ => absurd hi (hdraw x y n) }
  · exact exec_surroundedBy (e := { s with inputs := { s.inputs with dispHit := b } }) h
      { dispHit := fun ⟨x, y, n, hi⟩ => absurd hi (hdraw x y n) }
  · exact exec_surroundedBy (e := { s with DT := v }) h { delay := fun ⟨x, hi⟩ => absurd hi (hdelay x) }
  · exact exec_surroundedBy (e := { s with ST := v }) h {}
  · exact exec_surroundedBy (e := { s with keys := k }) h
      { keys := fun ⟨x, hi⟩ => absurd hi (not_or.mpr (hskip x)) }
  · exact exec_surroundedBy (e := { s with inputs := { s.inputs with randByte := v } }) h
      { randByte := fun ⟨x, imm, hi⟩ => absurd hi (hrand x imm) }
  · exact exec_surroundedBy (e := { s with inputs := { s.inputs with keyEvent := e } }) h
      { keyEvent := fun ⟨x, hi⟩ => absurd hi (hwait x) }

end Sys2Proof.Machine
end

section
/-! PROOF. Memory: what the primitives read and place (20_memory.md R39 to R41), and that a run leaves every byte as it
was (R35, R49). -/

namespace Sys2Proof.Machine

/-! ## The primitives inside and outside memory (20_memory.md R39, R40) -/

section Bounds

variable {s : State} {a : Nat}

theorem memRead1_inside (h : a < s.cfg.memorySize) : memRead1 s a = .ok (s.mem.byteAt a) := if_neg (Nat.not_le.mpr h)

theorem memRead1_outside (h : s.cfg.memorySize ≤ a) : memRead1 s a = .error (.addressOutOfBounds (.addr a)) := if_pos h

theorem memRead2_inside (h : a + 1 < s.cfg.memorySize) :
    memRead2 s a = .ok (wordOfBytes (s.mem.byteAt a) (s.mem.byteAt (a + 1))) := if_neg (Nat.not_le.mpr h)

theorem memRead2_outside (h : s.cfg.memorySize ≤ a + 1) : memRead2 s a = .error (.addressOutOfBounds (.addr a)) := if_pos h

theorem memWrite1_inside (v : Byte) (h : a < s.cfg.memorySize) : ∃ t, memWrite1 s a v = .ok t :=
  ⟨_, memWrite1_ok.mpr ⟨h, rfl⟩⟩

theorem memWrite1_outside (v : Byte) (h : s.cfg.memorySize ≤ a) :
    memWrite1 s a v = .error (.addressOutOfBounds (.addr a)) := if_pos h

theorem memWrite2_inside (v : Word) (h : a + 1 < s.cfg.memorySize) : ∃ t, memWrite2 s a v = .ok t :=
  ⟨_, memWrite2_ok.mpr ⟨h, rfl⟩⟩

theorem memWrite2_outside (v : Word) (h : s.cfg.memorySize ≤ a + 1) :
    memWrite2 s a v = .error (.addressOutOfBounds (.addr a)) := if_pos h

end Bounds

/-- Settles O50: inside memory the bytes or the big-endian word of them, outside it the fault. -/
theorem memReadChecksItsBounds : Obligations.MemReadChecksItsBounds := fun _ _ =>
  ⟨memRead1_inside, memRead1_outside, fun h => ⟨_, memRead2_inside h, wordOfBytes_toNat _ _⟩, memRead2_outside⟩

/-! ## What a write places (20_memory.md R40) -/

/-- Read after the two stores of a 2-byte write. -/
theorem byteAt_setByte_setByte {m : Memory} (hm : m.wf = true) (a : Nat) (hi lo : Byte) (q : Nat) :
    ((m.setByte a hi).setByte (a + 1) lo).byteAt q = if q = a + 1 then lo else if q = a then hi else m.byteAt q := by
  rw [byteAt_setByte (wf_setByte hm a hi), byteAt_setByte hm]

theorem memWrite1_places {s t : State} {a : Nat} {v : Byte} (hm : s.mem.wf = true) (h : memWrite1 s a v = .ok t) :
    t.mem.byteAt a = v ∧ (∀ b, b ≠ a → t.mem.byteAt b = s.mem.byteAt b) ∧ t = { s with mem := t.mem } := by
  obtain ⟨-, rfl⟩ := memWrite1_ok.mp h
  refine ⟨?_, fun b hb => ?_, rfl⟩
  · rw [byteAt_setByte hm, if_pos rfl]
  · rw [byteAt_setByte hm, if_neg hb]

theorem memWrite2_places {s t : State} {a : Nat} {v : Word} (hm : s.mem.wf = true) (h : memWrite2 s a v = .ok t) :
    t.mem.byteAt a = highByte v ∧ t.mem.byteAt (a + 1) = lowByte v
      ∧ (∀ b, b ≠ a → b ≠ a + 1 → t.mem.byteAt b = s.mem.byteAt b) ∧ t = { s with mem := t.mem } := by
  obtain ⟨-, rfl⟩ := memWrite2_ok.mp h
  refine ⟨?_, ?_, fun b hb hb' => ?_, rfl⟩
  · rw [byteAt_setByte_setByte hm, if_neg (by omega), if_pos rfl]
  · rw [byteAt_setByte_setByte hm, if_pos rfl]
  · rw [byteAt_setByte_setByte hm, if_neg hb', if_neg hb]

/-- Settles O49: a write inside memory completes and places its bytes, one outside it is refused before any store. -/
theorem memWritePlacesItsBytes : Obligations.MemWritePlacesItsBytes := by
  intro s a hm
  refine ⟨fun v => ⟨fun ha => ?_, memWrite1_outside v⟩, fun v => ⟨fun ha => ?_, memWrite2_outside v⟩⟩
  · obtain ⟨t, hw⟩ := memWrite1_inside v ha
    exact ⟨t, hw, memWrite1_places hm hw⟩
  · obtain ⟨t, hw⟩ := memWrite2_inside v ha
    obtain ⟨hhi, hlo, hframe⟩ := memWrite2_places hm hw
    exact ⟨t, hw, hhi ▸ highByte_toNat v, hlo ▸ lowByte_toNat v, hframe⟩

/-- Settles O48: the two bytes placed are the word's own, and the read puts them together again. -/
theorem sixteenBitRoundTrip : Obligations.SixteenBitRoundTrip := by
  intro s a v hm ha
  obtain ⟨t, hw⟩ := memWrite2_inside v ha
  obtain ⟨hhi, hlo, -, ht⟩ := memWrite2_places hm hw
  have hcfg : t.cfg = s.cfg := by rw [ht]
  refine ⟨t, hw, ?_⟩
  rw [memRead2_inside (hcfg ▸ ha), hhi, hlo, wordOfBytes_bytes]

/-! ## Memory over a run (20_memory.md R35, R49) -/

theorem step_keeps_mem {s t : State} (h : step s = .next t) : t.mem = s.mem := by
  obtain ⟨-, i, u, -, -, hx, rfl⟩ := step_next_inv h
  exact (execLeavesSurroundingsAndMemory i s u hx).2

theorem run_keeps_mem {k : Nat} {s t : State} (h : Sys2Proof.core.run k s = .next t) : t.mem = s.mem := by
  induction k generalizing s with
  | zero => cases h; rfl
  | succ k ih =>
    obtain ⟨u, hstep, hrun⟩ := run_succ_next_inv h
    exact (ih hrun).trans (step_keeps_mem hstep)

/-- Settles O39: a run keeps memory itself, hence every byte and every word read from it. -/
theorem runsLeaveMemoryConstant : Obligations.RunsLeaveMemoryConstant := by
  intro k s t h a
  have hm := run_keeps_mem h
  exact ⟨congrArg (Memory.byteAt · a) hm, by rw [wordNumberAt, hm, wordNumberAt]⟩

end Sys2Proof.Machine
end

section
/-! PROOF. The encoder and the decoder: the round trip in both directions, and the decoder, the map of R56 and the list of
R61 against each other (30_encoding.md). -/

namespace Sys2Proof

/-! ## Encoding, then decoding -/

/-- The fields of a packed word are the operands packed, and they select the operation's own arm (R54, R56). -/
@[simp] theorem decode_encode (i : Instr) : decode (encode i) = .instr i := by
  cases i with
  | clearDisplay | ret => rfl
  | jump | call | loadAddr | jumpOffset | skipEqImm | skipNeImm | loadImm | addImm | randAnd | draw =>
    simp [encode, decode]
  | skipEqReg => simp [encode, decode, decodeGroup5]
  | skipNeReg => simp [encode, decode, decodeGroup9]
  | move | orReg | andReg | xorReg | addReg | subReg | shiftRight | subRegRev | shiftLeft =>
    simp [encode, decode, decodeGroup8]
  | skipKeyPressed | skipKeyNotPressed => simp [encode, decode, decodeGroupE]
  | loadDelay | waitKey => simp [encode, decode, decodeGroupF]

/-- The first two bytes decide, the more significant first, and the rest of the string is left (R50). -/
theorem decodeBytes_bytes (w : Word) (rest : List Byte) {i : Instr} (h : decode w = .instr i) :
    decodeBytes (highByte w :: lowByte w :: rest) = .instr i rest := by
  rw [decodeBytes, wordOfBytes_bytes, h]

/-- Settles O2: the word decodes to its instruction, and the two bytes, read back, are the word. -/
theorem decodeOfEncodeIsTheInstruction : Obligations.DecodeOfEncodeIsTheInstruction := fun i rest =>
  ⟨decode_encode i, decodeBytes_bytes (encode i) rest (decode_encode i)⟩

/-- Settles O1: the decoder evaluated at each sample word. -/
theorem sampleWordsDecode : Obligations.SampleWordsDecode := by
  unfold Obligations.SampleWordsDecode
  decide

/-- Settles O4: the number of each packed format is the sum of its fields' numbers. -/
theorem encodedFieldsStandInPlace : Obligations.EncodedFieldsStandInPlace := by
  intro x y n imm addr
  simp only [encode, packA_toNat, packXI_toNat, packXYN_toNat, BitVec.reduceToNat, BitVec.toNat_ofFin, true_and]
  and_intros <;> omega

/-! ## Decoding, then encoding -/

section Unpacking

variable {w : Word} {g : BitVec 4}

/-- A word is the packing of its own fields, in each of the layouts of R54. -/
theorem packA_fields (hg : (fieldGroup w).toNat = g.toNat) : packA g (fieldAddr w) = w := by
  apply BitVec.eq_of_toNat_eq
  rw [packA_toNat, ← hg, fieldGroup_toNat, fieldAddr_toNat]; omega

theorem packXI_fields {imm : Byte} (hg : (fieldGroup w).toNat = g.toNat) (himm : fieldImm w = imm) :
    packXI g (fieldX w) imm = w := by
  apply BitVec.eq_of_toNat_eq
  rw [packXI_toNat, ← hg, ← himm, fieldGroup_toNat, fieldX_val, fieldImm_toNat]; omega

theorem packXYN_fields {n : BitVec 4} (hg : (fieldGroup w).toNat = g.toNat) (hn : (fieldN w).toNat = n.toNat) :
    packXYN g (fieldX w) (fieldY w) n = w := by
  apply BitVec.eq_of_toNat_eq
  rw [packXYN_toNat, ← hg, ← hn, fieldGroup_toNat, fieldX_val, fieldY_val, fieldN_toNat]; omega

end Unpacking

/-! ## The words R61 lists -/

/-- R61 in terms of the fields: group 0, the groups where `n` selects, and the groups where the low byte does. -/
theorem listedInvalid_iff (w : Word) : wordListedInvalid w.toNat = true ↔
    ((fieldGroup w).toNat = 0x0 ∧ w.toNat ≠ 0x00E0 ∧ w.toNat ≠ 0x00EE)
    ∨ ((fieldGroup w).toNat = 0x5 ∧ (fieldN w).toNat ≠ 0
      ∨ (fieldGroup w).toNat = 0x8 ∧ 8 ≤ (fieldN w).toNat ∧ (fieldN w).toNat ≠ 0xE
      ∨ (fieldGroup w).toNat = 0x9 ∧ (fieldN w).toNat ≠ 0)
    ∨ ((fieldGroup w).toNat = 0xE ∧ (fieldImm w).toNat ≠ 0x9E ∧ (fieldImm w).toNat ≠ 0xA1
      ∨ (fieldGroup w).toNat = 0xF ∧ (fieldImm w).toNat ≠ 0x07 ∧ (fieldImm w).toNat ≠ 0x0A) := by
  simp only [fieldGroup_toNat, fieldN_toNat, fieldImm_toNat, wordListedInvalid, Bool.or_eq_true, Bool.and_eq_true,
    beq_iff_eq, bne_iff_ne, decide_eq_true_eq]
  omega

/-- What the decoder may answer for `w`: an instruction whose word is `w`, or the rejection of `w`, which R61 lists. -/
inductive DecodesTo (w : Word) : Decoded → Prop where
  | instr {i : Instr} (hw : encode i = w) : DecodesTo w (.instr i)
  | invalidOpcode (hw : wordListedInvalid w.toNat = true) : DecodesTo w (.invalidOpcode w)

section Groups

variable {w : Word}

theorem DecodesTo.ite {p : Prop} [Decidable p] {i : Instr} {d : Decoded} (hi : p → encode i = w)
    (hd : ¬ p → DecodesTo w d) : DecodesTo w (if p then .instr i else d) := by
  split
  · next hp => exact .instr (hi hp)
  · next hp => exact hd hp

theorem decodeGroup0_decodesTo (hg : (fieldGroup w).toNat = 0x0) : DecodesTo w (decodeGroup0 w) :=
  .ite Eq.symm fun hcls => .ite Eq.symm fun hret => .invalidOpcode ((listedInvalid_iff w).mpr (by bv_omega))

theorem decodeGroup5_decodesTo (hg : (fieldGroup w).toNat = 0x5) : DecodesTo w (decodeGroup5 w) :=
  .ite (fun hn => packXYN_fields hg (congrArg _ hn)) fun hn => .invalidOpcode ((listedInvalid_iff w).mpr (by bv_omega))

theorem decodeGroup8_decodesTo (hg : (fieldGroup w).toNat = 0x8) : DecodesTo w (decodeGroup8 w) := by
  unfold decodeGroup8
  split
  case h_10 =>
    simp only [imp_false] at *
    exact .invalidOpcode ((listedInvalid_iff w).mpr (by omega))
  all_goals next hn => exact .instr (packXYN_fields hg hn)

theorem decodeGroup9_decodesTo (hg : (fieldGroup w).toNat = 0x9) : DecodesTo w (decodeGroup9 w) :=
  .ite (fun hn => packXYN_fields hg (congrArg _ hn)) fun hn => .invalidOpcode ((listedInvalid_iff w).mpr (by bv_omega))

theorem decodeGroupE_decodesTo (hg : (fieldGroup w).toNat = 0xE) : DecodesTo w (decodeGroupE w) :=
  .ite (packXI_fields hg) fun h9E => .ite (packXI_fields hg) fun hA1 =>
    .invalidOpcode ((listedInvalid_iff w).mpr (by bv_omega))

theorem decodeGroupF_decodesTo (hg : (fieldGroup w).toNat = 0xF) : DecodesTo w (decodeGroupF w) :=
  .ite (packXI_fields hg) fun h07 => .ite (packXI_fields hg) fun h0A =>
    .invalidOpcode ((listedInvalid_iff w).mpr (by bv_omega))

end Groups

/-- The decoder keeps its word: the groups without invalid words by their fields, the others by their own lemma. -/
theorem decode_decodesTo (w : Word) : DecodesTo w (decode w) := by
  have hlt := (fieldGroup w).isLt
  unfold decode
  split
  · next hg => exact decodeGroup0_decodesTo hg
  · next hg => exact .instr (packA_fields hg)
  · next hg => exact .instr (packA_fields hg)
  · next hg => exact .instr (packXI_fields hg rfl)
  · next hg => exact .instr (packXI_fields hg rfl)
  · next hg => exact decodeGroup5_decodesTo hg
  · next hg => exact .instr (packXI_fields hg rfl)
  · next hg => exact .instr (packXI_fields hg rfl)
  · next hg => exact decodeGroup8_decodesTo hg
  · next hg => exact decodeGroup9_decodesTo hg
  · next hg => exact .instr (packA_fields hg)
  · next hg => exact .instr (packA_fields hg)
  · next hg => exact .instr (packXI_fields hg rfl)
  · next hg => exact .instr (packXYN_fields hg rfl)
  · next hg => exact decodeGroupE_decodesTo hg
  · simp only [imp_false] at *
    exact decodeGroupF_decodesTo (by omega)

theorem encode_of_decode {w : Word} {i : Instr} (h : decode w = .instr i) : encode i = w := by
  cases h ▸ decode_decodesTo w with
  | instr hw => exact hw

theorem decode_invalidOpcode {w v : Word} (h : decode w = .invalidOpcode v) :
    v = w ∧ wordListedInvalid w.toNat = true := by
  cases h ▸ decode_decodesTo w with
  | invalidOpcode hw => exact ⟨rfl, hw⟩

/-- Settles O3: the decoder's answer names its word, as an instruction or as a rejection. -/
theorem encodeOfDecodeIsTheWord : Obligations.EncodeOfDecodeIsTheWord := fun _ =>
  ⟨fun _ => encode_of_decode, fun _ h => (decode_invalidOpcode h).1⟩

/-! ## The opcode map (R56) -/

theorem OpcodeRow.selects_iff (r : OpcodeRow) (w : Word) : r.selects w = true ↔ w &&& r.mask = r.bits := beq_iff_eq

/-- Settles O6: a word of two rows makes their patterns agree where both masks look, and no two of the 27 rows do. -/
theorem noTwoPatternsOverlap : Obligations.NoTwoPatternsOverlap := by
  intro w r q hr hq hrw hqw
  rw [OpcodeRow.selects_iff] at hrw hqw
  have hagree : r.bits &&& q.mask = q.bits &&& r.mask := by
    rw [← hrw, ← hqw, BitVec.and_assoc, BitVec.and_assoc, BitVec.and_comm r.mask]
  have htable : ∀ r ∈ opcodeTable, ∀ q ∈ opcodeTable, r.bits &&& q.mask = q.bits &&& r.mask → r = q := by decide
  exact htable r hr q hq hagree

section Rows

variable {r : OpcodeRow} {w : Word}

/-- A field that the row's mask covers is in the word as it is in the row's pattern. -/
theorem OpcodeRow.field_of_selects (h : r.selects w = true) (lo len : Nat)
    (hmask : r.mask.extractLsb' lo len = BitVec.allOnes len) : w.extractLsb' lo len = r.bits.extractLsb' lo len := by
  rw [← (r.selects_iff w).mp h, BitVec.extractLsb'_and, hmask, BitVec.and_allOnes]

/-- Each row compares the group, and in the groups with invalid words also the field that R57 to R60 select by. -/
theorem opcodeTable_masks : ∀ r ∈ opcodeTable, fieldGroup r.mask = 0xF
    ∧ ((fieldGroup r.bits).toNat = 0x0 → r.mask = 0xFFFF)
    ∧ ((fieldGroup r.bits).toNat = 0x5 ∨ (fieldGroup r.bits).toNat = 0x8 ∨ (fieldGroup r.bits).toNat = 0x9 →
      fieldN r.mask = 0xF)
    ∧ ((fieldGroup r.bits).toNat = 0xE ∨ (fieldGroup r.bits).toNat = 0xF → fieldImm r.mask = 0xFF) := by
  decide

/-- A row compares what R61 reads, so R61 lists either all its words or none, the row's own pattern among them. -/
theorem listedInvalid_of_selects (hr : r ∈ opcodeTable) (h : r.selects w = true)
    (hw : wordListedInvalid w.toNat = true) : wordListedInvalid r.bits.toNat = true := by
  obtain ⟨hgmask, hmask, hnmask, himmmask⟩ := opcodeTable_masks r hr
  have hg : fieldGroup w = fieldGroup r.bits := OpcodeRow.field_of_selects h 12 4 hgmask
  rw [listedInvalid_iff, hg] at hw
  rcases hw with h0 | hn | himm
  · have e : w = r.bits := by
      rw [← (r.selects_iff w).mp h, hmask h0.1]; exact BitVec.and_allOnes.symm
    exact (listedInvalid_iff _).mpr (.inl (e ▸ h0))
  · have e : fieldN w = fieldN r.bits := OpcodeRow.field_of_selects h 0 4 (hnmask (by omega))
    exact (listedInvalid_iff _).mpr (.inr (.inl (e ▸ hn)))
  · have e : fieldImm w = fieldImm r.bits := OpcodeRow.field_of_selects h 0 8 (himmmask (by omega))
    exact (listedInvalid_iff _).mpr (.inr (.inr (e ▸ himm)))

/-- R61 lists no word of the map, for it lists none of the 27 patterns. -/
theorem not_listedInvalid_of_selects (hr : r ∈ opcodeTable) (h : r.selects w = true) :
    wordListedInvalid w.toNat = false := by
  have hbits : ∀ r ∈ opcodeTable, wordListedInvalid r.bits.toNat = false := by decide
  exact Bool.eq_false_iff.mpr fun hw =>
    Bool.false_ne_true ((hbits r hr).symm.trans (listedInvalid_of_selects hr h hw))

end Rows

open Laws in
/-- The instructions' laws put together: each selects the row of its own mnemonic. -/
theorem encode_selects_own_row : ∀ i : Instr, EncodesItsOwnRow.Statement i
  | .clearDisplay => EncodesItsOwnRow.clearDisplay
  | .ret => EncodesItsOwnRow.ret
  | .jump addr => EncodesItsOwnRow.jump addr
  | .call addr => EncodesItsOwnRow.call addr
  | .skipEqImm x imm => EncodesItsOwnRow.skipEqImm x imm
  | .skipNeImm x imm => EncodesItsOwnRow.skipNeImm x imm
  | .skipEqReg x y => EncodesItsOwnRow.skipEqReg x y
  | .skipNeReg x y => EncodesItsOwnRow.skipNeReg x y
  | .loadImm x imm => EncodesItsOwnRow.loadImm x imm
  | .addImm x imm => EncodesItsOwnRow.addImm x imm
  | .move x y => EncodesItsOwnRow.move x y
  | .orReg x y => EncodesItsOwnRow.orReg x y
  | .andReg x y => EncodesItsOwnRow.andReg x y
  | .xorReg x y => EncodesItsOwnRow.xorReg x y
  | .addReg x y => EncodesItsOwnRow.addReg x y
  | .subReg x y => EncodesItsOwnRow.subReg x y
  | .shiftRight x y => EncodesItsOwnRow.shiftRight x y
  | .subRegRev x y => EncodesItsOwnRow.subRegRev x y
  | .shiftLeft x y => EncodesItsOwnRow.shiftLeft x y
  | .loadAddr addr => EncodesItsOwnRow.loadAddr addr
  | .jumpOffset addr => EncodesItsOwnRow.jumpOffset addr
  | .randAnd x imm => EncodesItsOwnRow.randAnd x imm
  | .draw x y n => EncodesItsOwnRow.draw x y n
  | .skipKeyPressed x => EncodesItsOwnRow.skipKeyPressed x
  | .skipKeyNotPressed x => EncodesItsOwnRow.skipKeyNotPressed x
  | .loadDelay x => EncodesItsOwnRow.loadDelay x
  | .waitKey x => EncodesItsOwnRow.waitKey x

/-! ## Decoder, map and list -/

theorem wordWellFormed_iff (w : Word) : wordWellFormed w = true ↔ ∃ r ∈ opcodeTable, r.selects w = true :=
  List.any_eq_true

/-- A decoded word selects the row of the instruction it encodes. -/
theorem exists_row_of_decode {w : Word} {i : Instr} (h : decode w = .instr i) :
    ∃ r ∈ opcodeTable, r.selects w = true ∧ r.mnemonic = i.mnemonic := by
  obtain ⟨r, hr, hname, hsel⟩ := encode_selects_own_row i
  exact ⟨r, hr, encode_of_decode h ▸ hsel, hname⟩

/-- A word that selects a row decodes, since R61 lists every rejected word. -/
theorem exists_instr_of_selects {r : OpcodeRow} {w : Word} (hr : r ∈ opcodeTable) (h : r.selects w = true) :
    ∃ i, decode w = .instr i := by
  cases hd : decode w with
  | instr i => exact ⟨i, rfl⟩
  | invalidOpcode v =>
    obtain ⟨-, hw⟩ := decode_invalidOpcode hd
    rw [not_listedInvalid_of_selects hr h] at hw
    contradiction

/-- Conversely every word on the list is rejected, since a decoded word selects a row. -/
theorem decode_of_listedInvalid {w : Word} (hw : wordListedInvalid w.toNat = true) : decode w = .invalidOpcode w := by
  cases hd : decode w with
  | instr i =>
    obtain ⟨r, hr, hsel, -⟩ := exists_row_of_decode hd
    rw [not_listedInvalid_of_selects hr hsel] at hw
    contradiction
  | invalidOpcode v => rw [(decode_invalidOpcode hd).1]

/-- Settles O5: a decoded word selects its instruction's row, and R61 lists the rejected words and no word of a row. -/
theorem decoderAcceptsExactlyTheTable : Obligations.DecoderAcceptsExactlyTheTable := by
  refine fun w => ⟨fun i => exists_row_of_decode, ?_, fun h => (decode_invalidOpcode h).2, decode_of_listedInvalid⟩
  rw [wordWellFormed_iff]
  constructor
  · rintro ⟨i, hd⟩
    obtain ⟨r, hr, hsel, -⟩ := exists_row_of_decode hd
    exact ⟨r, hr, hsel⟩
  · rintro ⟨r, hr, hsel⟩
    exact exists_instr_of_selects hr hsel

end Sys2Proof
end

section
/-! PROOF. The step, from fetch through dispatch to the next `pc` (40_step_and_dispatch.md). -/

namespace Sys2Proof.Machine

/-! ## Fetch (R68, R69) -/

section Fetch

variable {s : State}

theorem fetch_inside (h : s.pc.toNat + 1 < s.cfg.memorySize) :
    fetch s = .ok (wordOfBytes (s.mem.byteAt s.pc.toNat) (s.mem.byteAt (s.pc.toNat + 1))) := memRead2_inside h

theorem fetch_outside (h : s.cfg.memorySize ≤ s.pc.toNat + 1) :
    fetch s = .error (.addressOutOfBounds (.addr s.pc.toNat)) := memRead2_outside h

theorem fetch_error_iff {f : Fault} : fetch s = .error f ↔
    s.cfg.memorySize ≤ s.pc.toNat + 1 ∧ f = .addressOutOfBounds (.addr s.pc.toNat) := by
  rcases Nat.lt_or_ge (s.pc.toNat + 1) s.cfg.memorySize with h | h
  · rw [fetch_inside h]
    exact ⟨nofun, fun hf => absurd hf.1 (Nat.not_le.mpr h)⟩
  · rw [fetch_outside h, Except.error.injEq, eq_comm]
    exact ⟨fun e => ⟨h, e⟩, fun hf => hf.2⟩

/-- The word fetched, by its number: the two bytes at `pc`, the more significant first. -/
theorem fetch_ok_iff_wordNumberAt {w : Word} : fetch s = .ok w ↔
    s.pc.toNat + 1 < s.cfg.memorySize ∧ w.toNat = wordNumberAt s s.pc.toNat := by
  rw [fetch_ok_iff, ← BitVec.toNat_inj, wordOfBytes_toNat, wordNumberAt, eq_comm (a := w.toNat)]

end Fetch

theorem step_of_fetch_error {s : State} {f : Fault} (hf : fetch s = .error f) : step s = .fault f := by
  simp only [step, hf]

/-- Settles O8: R69's bound in the three forms; the default size puts it at 0x0FFF. -/
theorem fetchFailsExactlyAtMemoryEnd : Obligations.FetchFailsExactlyAtMemoryEnd := by
  refine fun s => ⟨fun h => ⟨fetch_outside h, step_of_fetch_error (fetch_outside h)⟩,
    fun h => ⟨_, fetch_inside h, wordOfBytes_toNat _ _⟩, fun hcfg => ?_⟩
  have hsize : s.cfg.memorySize = 0x1000 := by rw [hcfg]; rfl
  simp only [fetch_error_iff, exists_and_left, exists_eq, and_true]
  omega

/-! ## Dispatch (R71, R72) -/

/-- Settles O7: the two bytes are fetched as `encode i`, which decodes to `i`. -/
theorem stepRunsTheDecodedInstruction : Obligations.StepRunsTheDecodedInstruction := by
  intro s i hpc hbytes
  obtain ⟨hhi, hlo⟩ := List.cons_eq_cons.mp hbytes
  have hfetch : fetch s = .ok (encode i) := by
    rw [fetch_inside hpc, hhi, List.singleton_inj.mp hlo, wordOfBytes_bytes]
  have hstep := step_of_decoded hfetch (decode_encode i)
  exact ⟨fun t hx => by rw [hstep, hx]; rfl, fun f hx => by rw [hstep, hx]; rfl⟩

/-- Everything an instruction can answer: it completes, or it meets its failing condition of R133. -/
theorem exec_cases (i : Instr) (s : State) :
    (failureOf s i = none ∧ ∃ t, exec i s = .next t) ∨
    (∃ info, failureOf s i = some info ∧ exec i s = .fault (.addressOutOfBounds info)) := by
  cases i with
  | ret =>
    rcases exec_ret_cases s with ⟨h, e⟩ | ⟨h, e⟩
    · exact .inr ⟨_, if_pos h, e⟩
    · exact .inl ⟨if_neg h.ne', _, e⟩
  | call addr =>
    rcases exec_call_cases addr s with ⟨h, e⟩ | ⟨h, e⟩
    · exact .inr ⟨_, if_pos h, e⟩
    · exact .inl ⟨if_neg (Nat.not_le.mpr h), _, e⟩
  | draw x y n =>
    rcases exec_draw_cases x y n s with ⟨hn, h, e⟩ | ⟨h, e⟩
    · exact .inr ⟨_, if_pos ⟨hn, h⟩, e⟩
    · exact .inl ⟨if_neg (by omega), _, e⟩
  | waitKey x => exact .inl ⟨rfl, _, exec_waitKey_eq x s⟩
  | clearDisplay | jump | skipEqImm | skipNeImm | skipEqReg | skipNeReg | loadImm | addImm | move | orReg | andReg | xorReg
  | addReg | subReg | shiftRight | subRegRev | shiftLeft | loadAddr | jumpOffset | randAnd | skipKeyPressed
  | skipKeyNotPressed | loadDelay => exact .inl ⟨rfl, _, rfl⟩

/-- No instruction raises `InvalidOpcode` of its own: that failure is dispatch's (R134). -/
theorem thenEnvironment_exec_ne_invalidOpcode (i : Instr) (s : State) (v : Word) :
    thenEnvironment (exec i s) ≠ .fault (.invalidOpcode v) := by
  rcases exec_cases i s with ⟨-, t, e⟩ | ⟨info, -, e⟩ <;> rw [e] <;> nofun

theorem step_invalidOpcode_iff {s : State} {v : Word} : step s = .fault (.invalidOpcode v) ↔
    fetch s = .ok v ∧ decode v = .invalidOpcode v := by
  constructor
  · intro h
    rcases step_cases s with ⟨f, hf, e⟩ | ⟨w, u, hf, hd, e⟩ | ⟨w, i, -, -, e⟩
    · cases h.symm.trans e
      cases (fetch_error_iff.mp hf).2
    · cases h.symm.trans e
      obtain ⟨rfl, -⟩ := decode_invalidOpcode hd
      exact ⟨hf, hd⟩
    · exact absurd (e.symm.trans h) (thenEnvironment_exec_ne_invalidOpcode i s v)
  · rintro ⟨hf, hd⟩
    simp only [step, hf, hd]

/-- Settles O9: the step rejects exactly what the decoder rejects of what fetch answers, and that is R61's list. -/
theorem invalidWordsFail : Obligations.InvalidWordsFail := by
  intro s v
  have hlisted : decode v = .invalidOpcode v ↔ wordListedInvalid v.toNat = true :=
    ⟨fun h => (decode_invalidOpcode h).2, decode_of_listedInvalid⟩
  rw [step_invalidOpcode_iff, fetch_ok_iff_wordNumberAt, hlisted, and_assoc]

/-! ## The next `pc` (R75) -/

theorem addrOperand_eq_ofNat (addr : BitVec 12) : addrOperand addr = BitVec.ofNat 16 addr.toNat :=
  (BitVec.ofNat_toNat 16 addr).symm

/-- The sum of R83 on natural numbers, not reduced to 12 bits (D24). -/
theorem offsetTarget_eq_ofNat (s : State) (addr : BitVec 12) :
    offsetTarget s addr = BitVec.ofNat 16 ((s.reg 0).toNat + addr.toNat) := by
  simp [offsetTarget, addrOperand_eq_ofNat, BitVec.ofNat_add]

theorem keyIndex_eq_mod (v : Byte) : keyIndex v = v.toNat % 16 := by
  simp [keyIndex, BitVec.extractLsb'_toNat]

/-- A skip goes where R75 says, its condition taken as a proposition. -/
theorem skipIf_pc_eq_skipTarget (s : State) {c : Bool} {taken : Prop} [Decidable taken] (h : c = true ↔ taken) :
    (s.skipIf c).pc = skipTarget s.pc taken := by
  rw [State.skipIf_pc, skipTarget]
  simp only [h]

/-- Settles O43: an entry of R75 for each class of instruction. -/
theorem nextPcFollowsTheTable : Obligations.NextPcFollowsTheTable := by
  intro i s t h
  cases i with
  | jump addr => cases h; exact addrOperand_eq_ofNat addr
  | jumpOffset addr => cases h; exact offsetTarget_eq_ofNat s addr
  | call addr =>
    obtain ⟨-, rfl⟩ := exec_call_next_iff.mp h
    exact addrOperand_eq_ofNat addr
  | ret =>
    obtain ⟨-, rfl⟩ := exec_ret_next_iff.mp h
    rfl
  | skipEqImm | skipEqReg => cases h; exact skipIf_pc_eq_skipTarget s beq_iff_eq
  | skipNeImm | skipNeReg => cases h; exact skipIf_pc_eq_skipTarget s bne_iff_ne
  | skipKeyPressed x => cases h; exact skipIf_pc_eq_skipTarget s (by rw [keyPressed, keyIndex_eq_mod])
  | skipKeyNotPressed x =>
    cases h; exact skipIf_pc_eq_skipTarget s (by rw [keyPressed, keyIndex_eq_mod, Bool.not_eq_true'])
  | waitKey x =>
    rcases exec_waitKey_cases x s with ⟨hk, e⟩ | ⟨k, hk, e⟩ <;> cases h.symm.trans e
    · exact (if_pos hk).symm
    · exact (if_neg (by simp [hk])).symm
  | draw x y n =>
    obtain ⟨-, rfl⟩ := exec_draw_next_iff.mp h
    rfl
  | clearDisplay | loadImm | addImm | move | orReg | andReg | xorReg | addReg | subReg | shiftRight | subRegRev | shiftLeft
  | loadAddr | randAnd | loadDelay => cases h; rfl

end Sys2Proof.Machine
end

section
/-! PROOF. Control transfer: where return, jump, call and jump-offset go, and what call and return do to the stack
(41_control_flow.md R79 to R83). -/

namespace Sys2Proof.Machine

/-! ## The stack under call and return (10_state.md R24) -/

/-- The slots are read from the stack alone: moving `sp` leaves every slot its value. -/
theorem slot_congr {s t : State} (h : t.stack = s.stack) (k : Nat) : t.slot k = s.slot k := by
  unfold State.slot
  rw [h]

theorem exec_call_sp {addr : BitVec 12} {s t : State} (h : exec (.call addr) s = .next t) : t.sp = s.sp + 1 := by
  obtain ⟨-, rfl⟩ := exec_call_next_iff.mp h
  rfl

/-- The slots after a call: the return address is in the new top one and the others are as before. -/
theorem exec_call_slot {addr : BitVec 12} {s t : State} (hlen : s.stack.length = s.cfg.stackDepth)
    (h : exec (.call addr) s = .next t) (k : Nat) : t.slot k = if k = s.sp + 1 then s.pc + 2 else s.slot k := by
  obtain ⟨hroom, rfl⟩ := exec_call_next_iff.mp h
  have hin : s.sp < s.stack.length := hlen ▸ Nat.lt_of_not_le hroom
  rw [slot_goto, slot_set hin]

/-- Settles O14: the slots are those of `exec_call_slot`; the rest is untouched by the update that a call with room makes. -/
theorem callPushesTheReturnAddress : Obligations.CallPushesTheReturnAddress := by
  refine fun addr s hlen => ⟨fun hroom => ?_, fun hfull => by rw [exec_call_eq, if_pos hfull.ge]⟩
  have hcall := (exec_call_next_iff (addr := addr)).mpr ⟨Nat.not_le.mpr hroom, rfl⟩
  have hslot := exec_call_slot hlen hcall
  exact ⟨_, hcall, exec_call_sp hcall, (hslot _).trans (if_pos rfl), fun k hk => (hslot k).trans (if_neg hk),
    List.length_set, addrOperand_toNat addr, rfl, fun _ _ => rfl, rfl, fun _ => rfl, sameSurroundings_refl s⟩

/-- Settles O15: the update that a return with a return address makes is one of `pc`, `sp` and the outputs. -/
theorem returnPopsTheReturnAddress : Obligations.ReturnPopsTheReturnAddress := by
  refine fun s => ⟨fun hsp => ?_, fun hempty => by rw [exec_ret_eq, if_pos hempty]⟩
  exact ⟨_, exec_ret_next_iff.mpr ⟨hsp.ne', rfl⟩, rfl, rfl, slot_congr rfl, rfl, rfl, fun _ _ => rfl, rfl, fun _ => rfl,
    sameSurroundings_refl s⟩

/-- Settles O16: return pops the slot that the call filled, and the live slots lie below it. -/
theorem returnComesBackFromCall : Obligations.ReturnComesBackFromCall := by
  intro addr s t u hlen hcall hsp hstack
  have husp : u.sp = s.sp + 1 := hsp.trans (exec_call_sp hcall)
  have hslot (k : Nat) : u.slot k = if k = s.sp + 1 then s.pc + 2 else s.slot k :=
    (slot_congr hstack k).trans (exec_call_slot hlen hcall k)
  obtain ⟨v, hret, hpc, hvsp, hvslot, -⟩ := (returnPopsTheReturnAddress u).1 (by omega)
  refine ⟨v, hret, ?_, by omega, fun k hk => ?_⟩
  · rw [hpc, hslot, if_pos husp]
  · rw [hvslot, hslot, if_neg (by omega)]

/-! ## Jumps -/

/-- Settles O13: jump is `goto` to its own address; at 0xFFF no second byte fits below 4096. -/
theorem jumpSetsPcToItsAddress : Obligations.JumpSetsPcToItsAddress := by
  intro addr s
  refine ⟨_, exec_jump addr s, addrOperand_toNat addr, rfl, frame_goto s _, fun hself => ?_, fun haddr hsize => ?_⟩
  · have hpc : addrOperand addr = s.pc := BitVec.eq_of_toNat_eq ((addrOperand_toNat addr).trans hself.symm)
    rw [hpc, State.goto]
  · subst haddr
    exact fetch_outside hsize

/-- The largest sum of jump-offset, 0xFF + 0xFFF, does not carry out of 16 bits (10_state.md R21). -/
theorem offsetTarget_toNat (s : State) (addr : BitVec 12) :
    (offsetTarget s addr).toNat = (s.reg 0).toNat + addr.toNat := by
  rw [offsetTarget_eq_ofNat, BitVec.toNat_ofNat]
  exact Nat.mod_eq_of_lt (by omega)

/-- Settles O17: jump-offset is `goto` to that sum. -/
theorem jumpOffsetAddsV0 : Obligations.JumpOffsetAddsV0 := fun addr s =>
  ⟨_, exec_jumpOffset addr s, offsetTarget_toNat s addr, rfl, frame_goto s _⟩

end Sys2Proof.Machine
end

section
/-! PROOF. The skips on a comparison: which of an opposite pair skips, the corner at the end of memory, and the words of
groups 5 and 9 that are none of them (42_skips.md R84 to R88). -/

namespace Sys2Proof.Machine

/-! ## Two skips with opposite conditions (R84) -/

/-- Of the skips on `c` and on its negation exactly one skips; `p` is the condition as a proposition. -/
theorem skipIf_opposite_pc (s : State) {c : Bool} {p : Prop} (h : c = true ↔ p) :
    (p → (s.skipIf c).pc = s.pc + 4 ∧ (s.skipIf (!c)).pc = s.pc + 2)
    ∧ (¬ p → (s.skipIf c).pc = s.pc + 2 ∧ (s.skipIf (!c)).pc = s.pc + 4) := by
  rw [← h]
  cases c with
  | true => exact ⟨fun _ => ⟨rfl, rfl⟩, fun hn => absurd rfl hn⟩
  | false => exact ⟨nofun, fun _ => ⟨rfl, rfl⟩⟩

/-- The two comparisons for equality are such a pair. -/
theorem skipIf_beq_bne_pc (s : State) (a b : Byte) :
    (a = b → (s.skipIf (a == b)).pc = s.pc + 4 ∧ (s.skipIf (a != b)).pc = s.pc + 2)
    ∧ (a ≠ b → (s.skipIf (a == b)).pc = s.pc + 2 ∧ (s.skipIf (a != b)).pc = s.pc + 4) :=
  skipIf_opposite_pc s beq_iff_eq

/-- From 0x0FFE a skip goes to 0x1002 or 0x1000, and neither has a byte in memory (R85). -/
theorem fetch_skipIf_past_end {s : State} (hpc : s.pc = 0x0FFE) (hsize : s.cfg.memorySize ≤ 4096) (c : Bool) :
    ∃ f, fetch (s.skipIf c) = .error f := by
  have hpast : 4096 ≤ (s.skipIf c).pc.toNat := by
    rw [State.skipIf_pc, hpc]
    cases c <;> decide
  exact ⟨_, fetch_outside (Nat.le_succ_of_le (hsize.trans hpast))⟩

/-- Settles O19: the pair compares `V[x]` with the immediate. -/
theorem skipsCompareWithImmediates : Obligations.SkipsCompareWithImmediates := by
  intro x imm s
  obtain ⟨heq, hne⟩ := skipIf_beq_bne_pc s (s.reg x) imm
  exact ⟨_, _, exec_skipEqImm x imm s, exec_skipNeImm x imm s, heq, hne, rfl, rfl, frame_skipIf s _, frame_skipIf s _,
    fun hpc hsize => ⟨fetch_skipIf_past_end hpc hsize _, fetch_skipIf_past_end hpc hsize _⟩⟩

/-! ## The register skips and their words (R58) -/

/-- R61 lists the words of groups 5 and 9 whose low nibble is not 0. -/
theorem listedInvalid_of_group5_or_group9 {w : Word} (hg : w.toNat / 4096 = 5 ∨ w.toNat / 4096 = 9)
    (hn : w.toNat % 16 ≠ 0) : wordListedInvalid w.toNat = true := by
  rw [listedInvalid_iff, fieldGroup_toNat, fieldN_toNat]
  rcases hg with h5 | h9
  · exact .inr (.inl (.inl ⟨h5, hn⟩))
  · exact .inr (.inl (.inr (.inr ⟨h9, hn⟩)))

/-- Settles O20: the pair compares `V[x]` with `V[y]`, equal when `x = y`; the other words of the groups are on R61's list. -/
theorem skipsCompareRegisters : Obligations.SkipsCompareRegisters := by
  refine ⟨fun x y s => ?_, fun w hg hn => decode_of_listedInvalid (listedInvalid_of_group5_or_group9 hg hn)⟩
  obtain ⟨heq, hne⟩ := skipIf_beq_bne_pc s (s.reg x) (s.reg y)
  exact ⟨_, _, exec_skipEqReg x y s, exec_skipNeReg x y s, heq, hne, fun hxy => heq (congrArg s.reg hxy), rfl, rfl,
    frame_skipIf s _, frame_skipIf s _⟩

end Sys2Proof.Machine
end

section
/-! PROOF. Loads and moves: the updates of one destination by load-imm, add-imm, move and load-addr, and add-imm as
subtraction (43_load_and_move.md R89 to R93). -/

namespace Sys2Proof.Machine

/-- A frame that lets one register change keeps every other one. -/
theorem Frame.reg_of_ne {x r : Reg} {s t : State} (h : Frame [x] s t) (hr : r ≠ x) : t.reg r = s.reg r :=
  h.regs r (mt List.mem_singleton.mp hr)

/-! ## The sum of add-imm (R91) -/

/-- Adding 0 gives the byte back. -/
theorem addResult_zero (a : Byte) : addResult a 0 = a :=
  BitVec.eq_of_toNat_eq ((addResult_toNat a 0).trans (Nat.mod_eq_of_lt a.isLt))

/-- Adding the complement `0x100 - k` subtracts `k`: the carry that the sum discards is the 0x100. -/
theorem addResult_complement_toNat {a imm : Byte} {k : Nat} (himm : imm.toNat = 256 - k) (hk : k ≤ a.toNat) :
    (addResult a imm).toNat = a.toNat - k := by
  have hsum : a.toNat + imm.toNat = a.toNat - k + 256 := by omega
  rw [addResult_toNat, hsum, Nat.add_mod_right]
  exact Nat.mod_eq_of_lt (by omega)

/-- Settles O23: add-imm writes `addResult` to `V[x]` alone; the flag is one of the other registers. -/
theorem addImmWrapsWithoutFlag : Obligations.AddImmWrapsWithoutFlag := by
  intro x imm s
  have hx : (s.setReg x (addResult (s.reg x) imm)).advance.reg x = addResult (s.reg x) imm := reg_setReg_same s x _
  have hframe := frame_setReg_advance s x (addResult (s.reg x) imm)
  refine ⟨_, exec_addImm x imm s, ?_, fun hne => hframe.reg_of_ne hne.symm, rfl, rfl, hframe, fun hzero => ?_,
    fun k himm hk => ?_⟩
  · rw [hx, addResult_toNat]
  · subst hzero
    exact frame_setReg_same_advance s x (addResult_zero _)
  · rw [hx, addResult_complement_toNat himm hk]

/-! ## One destination, one value (R90, R92, R93) -/

/-- Settles O22: load-imm and move write one register, which a move onto itself gives its own value; load-addr writes
`I`, and its 12-bit address stays below 0x1000. -/
theorem loadsAndMovesWriteOneRegister : Obligations.LoadsAndMovesWriteOneRegister := by
  refine ⟨fun x imm s => ?loadImm, fun x y s => ?move, fun addr s => ?loadAddr⟩
  case loadImm =>
    exact ⟨_, exec_loadImm x imm s, reg_setReg_same s x imm, rfl, rfl, frame_setReg_advance s x imm⟩
  case move =>
    exact ⟨_, exec_move x y s, reg_setReg_same s x _, rfl, rfl, frame_setReg_advance s x _,
      fun hxy => frame_setReg_same_advance s x (congrArg s.reg hxy.symm)⟩
  case loadAddr =>
    have hI : (addrOperand addr).toNat = addr.toNat := addrOperand_toNat addr
    exact ⟨_, exec_loadAddr addr s, hI, hI.trans_le (Nat.le_of_lt_succ addr.isLt), rfl, rfl, fun _ _ => rfl,
      sameStack_refl s, fun _ => rfl, sameSurroundings_refl s⟩

end Sys2Proof.Machine
end

section
/-! PROOF. The ALU operations of group 8: the results and flags of `alu_with_flags` as arithmetic, the two orders of writing a
result and the flag, and the operations put together from them (44_alu_with_flags.md R94 to R104). -/

namespace Sys2Proof.Machine

/-! ## or, and, xor (R95 to R97) -/

/-- Settles O24: each writes one register, and `BitVec`'s own lemmas say what its bits are. -/
theorem logicOperationsActBitwise : Obligations.LogicOperationsActBitwise := by
  intro x y s
  refine ⟨_, _, _, exec_orReg x y s, exec_andReg x y s, exec_xorReg x y s, fun k _ => ?or, fun k _ => ?and, fun k _ => ?xor,
    ?same, rfl, rfl, rfl, rfl, rfl, rfl, frame_setReg_advance s x _, frame_setReg_advance s x _, frame_setReg_advance s x _⟩
  case or => rw [reg_advance, reg_setReg_same, BitVec.getLsbD_or]
  case and => rw [reg_advance, reg_setReg_same, BitVec.getLsbD_and]
  case xor => rw [reg_advance, reg_setReg_same, BitVec.getLsbD_xor, Bool.bne_eq_xor]
  case same =>
    rintro rfl
    exact ⟨frame_setReg_same_advance s x BitVec.or_self, frame_setReg_same_advance s x BitVec.and_self,
      (reg_setReg_same s x _).trans BitVec.xor_self⟩

/-! ## Results and flags as arithmetic (R103) -/

theorem flagByte_decide_toNat (p : Prop) [Decidable p] : (flagByte (decide p)).toNat = if p then 1 else 0 := by
  simp only [flagByte_toNat, decide_eq_true_eq]

theorem carryFlag_toNat (a b : Byte) : (flagByte (addCarry a b)).toNat = if a.toNat + b.toNat > 255 then 1 else 0 :=
  flagByte_decide_toNat _

theorem noBorrowFlag_toNat (a b : Byte) : (flagByte (subNoBorrow a b)).toNat = if a.toNat ≥ b.toNat then 1 else 0 :=
  flagByte_decide_toNat _

theorem noBorrowFlag_self (a : Byte) : flagByte (subNoBorrow a a) = 1 :=
  BitVec.eq_of_toNat_eq ((noBorrowFlag_toNat a a).trans (if_pos le_rfl))

/-- No borrow is the carry out of the nine-bit sum `a + NOT b + 1`. -/
theorem noBorrowFlag_eq_carry (a b : Byte) : (flagByte (subNoBorrow a b)).toNat = (a.toNat + (~~~b).toNat + 1) / 256 := by
  rw [noBorrowFlag_toNat, BitVec.toNat_not]
  split <;> omega

/-- The difference of bytes is that of `BitVec`. -/
theorem subResult_eq_sub (a b : Byte) : subResult a b = a - b := by
  apply BitVec.eq_of_toNat_eq
  rw [subResult_toNat, BitVec.toNat_sub]
  omega

theorem subResult_self (a : Byte) : subResult a a = 0 := (subResult_eq_sub a a).trans (BitVec.sub_self a)

/-- The difference as an integer, modulo 256. -/
theorem subResult_toInt (a b : Byte) : ((subResult a b).toNat : Int) = (a.toNat - b.toNat : Int) % 256 := by
  rw [subResult_toNat]
  omega

theorem subResult_eq_add_not (a b : Byte) : subResult a b = a + ~~~b + 1 := by
  rw [subResult_eq_sub, BitVec.sub_eq_add_neg, BitVec.neg_eq_not_add, BitVec.add_assoc]
  rfl

theorem flagByte_toNat_eq_toNat (b : Bool) : (flagByte b).toNat = b.toNat := by cases b <;> rfl

/-- The flag of a bit of a byte is that digit of its number. -/
theorem bitFlag_toNat (a : Byte) (k : Nat) : (flagByte (a.getLsbD k)).toNat = a.toNat / 2 ^ k % 2 :=
  (flagByte_toNat_eq_toNat _).trans (Nat.toNat_testBit _ k)

theorem shrFlag_toNat (a : Byte) : (flagByte (shrOut a)).toNat = a.toNat % 2 :=
  (bitFlag_toNat a 0).trans (by rw [pow_zero, Nat.div_one])

theorem shlFlag_toNat (a : Byte) : (flagByte (shlOut a)).toNat = a.toNat / 128 :=
  (bitFlag_toNat a 7).trans (Nat.mod_eq_of_lt (by omega))

/-! ## A result and the flag, in either order -/

section Writes
variable (s : State) {x : Reg} (v : Byte) (b : Bool)

/-- With the flag second, the result stays unless it went to register 15. -/
theorem reg_result_of_flag_second (hx : x ≠ 15) : ((s.setReg x v).setFlag b).advance.reg x = v := by
  rw [reg_advance, reg_setFlag, if_neg hx, reg_setReg_same]

theorem reg_flag_of_flag_second : ((s.setReg x v).setFlag b).advance.reg 15 = flagByte b := reg_setReg_same _ 15 _

/-- With the result second, the flag stays unless the result went to register 15. -/
theorem reg_flag_of_result_second (hx : x ≠ 15) : ((s.setFlag b).setReg x v).advance.reg 15 = flagByte b := by
  rw [reg_advance, reg_setReg_ne _ v hx.symm]
  exact reg_setReg_same s 15 _

theorem reg_result_of_result_second : ((s.setFlag b).setReg x v).advance.reg x = v := reg_setReg_same _ x v

end Writes

/-! ## The flag-writing operations (R98 to R102) -/

/-- Settles O25: `addResult` and then `addCarry`. -/
theorem addRegSumAndCarry : Obligations.AddRegSumAndCarry := by
  intro x y s
  refine ⟨_, exec_addReg x y s, fun hx => ?sum, ?carry, rfl, rfl, frame_setReg_setFlag_advance s x _ _⟩
  case sum => rw [reg_result_of_flag_second s _ _ hx, addResult_toNat]
  case carry => rw [reg_flag_of_flag_second, carryFlag_toNat]

/-- The difference of `a` and `b` to `V[x]` and then its flag, which is what both subtractions write. -/
theorem difference_then_noBorrow {x : Reg} {a b : Byte} {s t : State}
    (ht : t = ((s.setReg x (subResult a b)).setFlag (subNoBorrow a b)).advance) :
    (x ≠ 15 → ((t.reg x).toNat : Int) = (a.toNat - b.toNat : Int) % 256)
    ∧ (t.reg 15).toNat = (if a.toNat ≥ b.toNat then 1 else 0)
    ∧ (a = b → (t.reg 15).toNat = 1 ∧ (x ≠ 15 → t.reg x = 0)) := by
  subst ht
  refine ⟨fun hx => ?_, ?_, ?_⟩
  · rw [reg_result_of_flag_second s _ _ hx, subResult_toInt]
  · rw [reg_flag_of_flag_second, noBorrowFlag_toNat]
  · rintro rfl
    rw [reg_flag_of_flag_second, noBorrowFlag_self]
    exact ⟨rfl, fun hx => (reg_result_of_flag_second s _ _ hx).trans (subResult_self a)⟩

/-- Settles O26: the difference of `V[x]` and `V[y]`. -/
theorem subRegDifferenceAndNoBorrow : Obligations.SubRegDifferenceAndNoBorrow := by
  intro x y s
  obtain ⟨hdiff, hflag, hequal⟩ := difference_then_noBorrow (a := s.reg x) (b := s.reg y) (s := s) rfl
  exact ⟨_, exec_subReg x y s, hdiff, hflag, fun hxy => hequal (congrArg s.reg hxy), rfl, rfl,
    frame_setReg_setFlag_advance s x _ _⟩

/-- Settles O27: the difference of `V[y]` and `V[x]`; register `y` is one of the frame's unless it is written. -/
theorem subRegRevDifferenceAndNoBorrow : Obligations.SubRegRevDifferenceAndNoBorrow := by
  intro x y s
  obtain ⟨hdiff, hflag, hequal⟩ := difference_then_noBorrow (a := s.reg y) (b := s.reg x) (s := s) rfl
  have hframe := frame_setReg_setFlag_advance s x (subResult (s.reg y) (s.reg x)) (subNoBorrow (s.reg y) (s.reg x))
  exact ⟨_, exec_subRegRev x y s, hdiff, hflag, fun hxy => hequal (congrArg s.reg hxy.symm),
    fun h15 hyx => hframe.regs y (by simp [h15, hyx]), rfl, rfl, hframe⟩

/-- Settles O28: the flag first, so that the shifted value is what register `x` holds in every case. -/
theorem shiftsMoveOneBit : Obligations.ShiftsMoveOneBit := by
  intro x y z s
  refine ⟨_, _, exec_shiftRight x y s, exec_shiftLeft x y s, exec_shiftRight x z s, exec_shiftLeft x z s, ?right, ?left,
    fun hx => ⟨?bit0, ?bit7⟩, rfl, rfl, rfl, rfl, frame_setFlag_setReg_advance s x _ _, frame_setFlag_setReg_advance s x _ _⟩
  case right => rw [reg_result_of_result_second, shrResult_toNat]
  case left => rw [reg_result_of_result_second, shlResult_toNat, Nat.mul_comm]
  case bit0 => rw [reg_flag_of_result_second s _ _ hx, shrFlag_toNat]
  case bit7 => rw [reg_flag_of_result_second s _ _ hx, shlFlag_toNat]

/-- Settles O29: what each subtraction writes is restated by the complement, and the two laws are those of subtraction. -/
theorem subtractionIsAdditionOfTheComplement : Obligations.SubtractionIsAdditionOfTheComplement := by
  intro x y s hx
  refine ⟨_, _, exec_subReg x y s, exec_subRegRev x y s, ?_⟩
  simp only [reg_result_of_flag_second s _ _ hx, reg_flag_of_flag_second]
  refine ⟨subResult_eq_add_not _ _, subResult_eq_add_not _ _, noBorrowFlag_eq_carry _ _, noBorrowFlag_eq_carry _ _, ?_, ?_⟩
  · rw [subResult_eq_sub, BitVec.sub_add_cancel]
  · rw [subResult_eq_sub, subResult_eq_sub, sub_add_sub_cancel, BitVec.sub_self]
    rfl

/-! ## Register 15 as an operand (R104) -/

/-- What holds of some next state holds of the next state. -/
theorem of_exists_next {o : Host.Outcome State Fault Refusal} {P : State → Prop} {t : State}
    (h : ∃ u, o = .next u ∧ P u) (ht : o = .next t) : P t := by
  obtain ⟨u, hu, hP⟩ := h
  cases hu.symm.trans ht
  exact hP

/-- When result and flag both go to register 15, no other register is written. -/
theorem SameRegs.of_pair_self {r : Reg} {s t : State} (h : SameRegs [r, r] s t) : SameRegs [r] s t :=
  fun q hq => h q (by simpa using hq)

theorem addReg_to_flagReg {y : Reg} {s t : State} (h : exec (.addReg 15 y) s = .next t) :
    (t.reg 15).toNat = (if (s.reg 15).toNat + (s.reg y).toNat > 255 then 1 else 0) ∧ SameRegs [15] s t := by
  obtain ⟨-, hflag, -, -, hframe⟩ := of_exists_next (addRegSumAndCarry 15 y s) h
  exact ⟨hflag, hframe.regs.of_pair_self⟩

theorem subReg_to_flagReg {y : Reg} {s t : State} (h : exec (.subReg 15 y) s = .next t) :
    (t.reg 15).toNat = (if (s.reg 15).toNat ≥ (s.reg y).toNat then 1 else 0) ∧ SameRegs [15] s t := by
  obtain ⟨-, hflag, -, -, -, hframe⟩ := of_exists_next (subRegDifferenceAndNoBorrow 15 y s) h
  exact ⟨hflag, hframe.regs.of_pair_self⟩

theorem subRegRev_to_flagReg {y : Reg} {s t : State} (h : exec (.subRegRev 15 y) s = .next t) :
    (t.reg 15).toNat = (if (s.reg y).toNat ≥ (s.reg 15).toNat then 1 else 0) ∧ SameRegs [15] s t := by
  obtain ⟨-, hflag, -, -, -, -, hframe⟩ := of_exists_next (subRegRevDifferenceAndNoBorrow 15 y s) h
  exact ⟨hflag, hframe.regs.of_pair_self⟩

theorem shift_to_flagReg (y : Reg) (s : State) :
    (∀ t, exec (.shiftRight 15 y) s = .next t → (t.reg 15).toNat = (s.reg 15).toNat / 2 ∧ SameRegs [15] s t)
    ∧ (∀ t, exec (.shiftLeft 15 y) s = .next t → (t.reg 15).toNat = 2 * (s.reg 15).toNat % 256 ∧ SameRegs [15] s t) := by
  obtain ⟨t, u, ht, hu, -, -, hright, hleft, -, -, -, -, -, htframe, huframe⟩ := shiftsMoveOneBit 15 y y s
  refine ⟨fun _ h => ?_, fun _ h => ?_⟩
  · cases h.symm.trans ht
    exact ⟨hright, htframe.regs.of_pair_self⟩
  · cases h.symm.trans hu
    exact ⟨hleft, huframe.regs.of_pair_self⟩

/-- draw writes the reply to register 15 alone, and its command holds the coordinates as they were. -/
theorem draw_flag_and_coordinates {x y : Reg} {n : Fin 16} {s t : State} (h : exec (.draw x y n) s = .next t) :
    (t.reg 15).toNat = (if s.inputs.dispHit then 1 else 0) ∧ SameRegs [15] s t
    ∧ ∃ rows, t.out.dispCmd = .draw (s.reg x) (s.reg y) rows := by
  obtain ⟨-, rfl⟩ := exec_draw_next_iff.mp h
  refine ⟨?_, (frame_setFlag_advance_send s _ _).regs, _, rfl⟩
  rw [reg_send, reg_advance, reg_setFlag, if_pos rfl, flagByte_toNat]

/-- Settles O30: a row with `x = 15` keeps one write, a row with `y = 15` alone is the operation's own statement, and the
coordinates of draw are read before the flag. -/
theorem register15AsOperandOfFlagWriters : Obligations.Register15AsOperandOfFlagWriters := by
  intro x y n s
  obtain ⟨hshiftRight, hshiftLeft⟩ := shift_to_flagReg y s
  refine ⟨fun _ => addReg_to_flagReg, fun t hx h => ?addFrom, fun t h => ?addSelf, fun _ => subReg_to_flagReg,
    fun t hx h => ?subFrom, fun t h => ?subSelf, fun _ => subRegRev_to_flagReg, fun t hx h => ?revFrom, fun t h => ?revSelf,
    hshiftRight, hshiftLeft, fun _ => draw_flag_and_coordinates, fun _ => draw_flag_and_coordinates⟩
  case addFrom =>
    obtain ⟨hsum, hflag, -, -, hframe⟩ := of_exists_next (addRegSumAndCarry x 15 s) h
    exact ⟨hflag, hsum hx, hframe.regs⟩
  case addSelf =>
    rw [Nat.two_mul]
    exact addReg_to_flagReg h
  case subFrom =>
    obtain ⟨hdiff, hflag, -, -, -, hframe⟩ := of_exists_next (subRegDifferenceAndNoBorrow x 15 s) h
    exact ⟨hflag, hdiff hx, hframe.regs⟩
  case subSelf =>
    obtain ⟨hflag, hregs⟩ := subReg_to_flagReg h
    exact ⟨BitVec.eq_of_toNat_eq (hflag.trans (if_pos le_rfl)), hregs⟩
  case revFrom =>
    obtain ⟨hdiff, hflag, -, -, -, -, hframe⟩ := of_exists_next (subRegRevDifferenceAndNoBorrow x 15 s) h
    exact ⟨hflag, hdiff hx, hframe.regs⟩
  case revSelf =>
    obtain ⟨hflag, hregs⟩ := subRegRev_to_flagReg h
    exact ⟨BitVec.eq_of_toNat_eq (hflag.trans (if_pos le_rfl)), hregs⟩

end Sys2Proof.Machine
end

section
/-! PROOF. The operations that use a collaborator: what each takes from it, what it sends, and how wait-key holds the machine
while no key event comes (45_collaborator_ops.md R105 to R113). -/

namespace Sys2Proof.Machine

/-! ## The random byte (R107) -/

/-- A masked byte has no bit outside the mask. -/
theorem masked_and_not_mask (v imm : Byte) : (v &&& imm) &&& ~~~imm = 0 := by
  rw [BitVec.and_assoc, BitVec.and_not_self]
  exact BitVec.and_zero

/-- Masking changes nothing in a byte that has no bit outside the mask. -/
theorem and_mask_of_no_bit_outside {v imm : Byte} (h : v &&& ~~~imm = 0) : v &&& imm = v :=
  calc v &&& imm = v &&& imm ||| v &&& ~~~imm := by rw [h]; exact BitVec.or_zero.symm
    _ = v &&& (imm ||| ~~~imm) := BitVec.and_or_distrib_left.symm
    _ = v := by rw [BitVec.or_not_self, BitVec.and_allOnes]

/-- Settles O32: the masked random byte, and a byte inside the mask is itself the random byte that yields it. -/
theorem randAndMasksTheRandomByte : Obligations.RandAndMasksTheRandomByte := by
  intro x imm s
  refine ⟨⟨_, exec_randAnd x imm s, reg_setReg_same s x _, ?_, rfl, rfl, frame_setReg_advance s x _⟩,
    fun v hv => ⟨v, _, exec_randAnd x imm _, ?_⟩⟩
  · rw [reg_advance, reg_setReg_same, masked_and_not_mask]
  · rw [reg_advance, reg_setReg_same]
    exact and_mask_of_no_bit_outside hv

/-! ## The display (R106, R108) -/

/-- Settles O31: an advance and a command, so no register is written. -/
theorem clearDisplaySendsOneCommand : Obligations.ClearDisplaySendsOneCommand := fun s =>
  ⟨_, exec_clearDisplay s, rfl, rfl, frame_of_update rfl fun _ _ => rfl⟩

/-- Settles O33: draw's bounds condition is false, so it sends the row bytes, listed by their offset from `I`. -/
theorem drawSendsTheSpriteRows : Obligations.DrawSendsTheSpriteRows := by
  intro x y n s hinside
  have hdraw := (exec_draw_next_iff (x := x) (y := y) (n := n) (s := s)).mpr ⟨by omega, rfl⟩
  obtain ⟨hflag, -, -⟩ := draw_flag_and_coordinates hdraw
  refine ⟨_, _, hdraw, rfl, ?length, fun k hk => ?row, hflag, rfl, frame_setFlag_advance_send s _ _⟩
  case length => rw [List.length_map, List.length_range]
  case row => rw [List.getElem?_map, List.getElem?_range hk, Option.map_some]

/-- Settles O34: draw's bounds condition is true, and the step answers the fault of the instruction it fetched. -/
theorem drawPastMemoryFails : Obligations.DrawPastMemoryFails := by
  intro x y n s hrows hpast
  have hfault : exec (.draw x y n) s = .fault (.addressOutOfBounds (.addr (s.I.toNat + n.val - 1))) := by
    rw [exec_draw_eq, if_pos ⟨hrows, hpast⟩]
  refine ⟨hfault, fun hfetch => ?_⟩
  rw [step_of_decoded hfetch (decode_encode _), hfault, thenEnvironment]

/-! ## The key snapshot and the delay timer (R109 to R111) -/

/-- Settles O21: the pair tests the key that `keyIndex` takes from `V[x]`. -/
theorem keySkipsTestTheSnapshot : Obligations.KeySkipsTestTheSnapshot := by
  intro x s
  have hkey : keyPressed s x = s.keys.getLsbD ((s.reg x).toNat % 16) := by rw [keyPressed, keyIndex_eq_mod]
  obtain ⟨hpressed, hreleased⟩ := skipIf_opposite_pc s (Bool.eq_iff_iff.mp hkey)
  exact ⟨_, _, exec_skipKeyPressed x s, exec_skipKeyNotPressed x s, hpressed, fun h => hreleased (Bool.eq_false_iff.mp h),
    rfl, rfl, frame_skipIf s _, frame_skipIf s _⟩

/-- Settles O35: the timer is read from the state; no instruction changes its surroundings, `DT` and `ST` among them. -/
theorem loadDelayReadsTheTimer : Obligations.LoadDelayReadsTheTimer := by
  refine ⟨fun x s => ?reads, fun x s dt st => ?afterPort, fun i s t h => ?noWrite⟩
  case reads => exact ⟨_, exec_loadDelay x s, reg_setReg_same s x _, rfl, rfl, rfl, frame_setReg_advance s x _⟩
  case afterPort => exact ⟨_, exec_loadDelay x _, reg_setReg_same _ x _⟩
  case noWrite =>
    obtain ⟨⟨hDT, hST, -⟩, -⟩ := execLeavesSurroundingsAndMemory i s t h
    exact ⟨hDT, hST⟩

/-! ## The key event (R112) -/

@[simp] theorem keyValue_toNat (k : BitVec 4) : (keyValue k).toNat = k.toNat := by
  rw [keyValue, BitVec.toNat_setWidth]
  omega

section WaitKey
variable {x : Reg} {s : State}

theorem exec_waitKey_of_no_event (h : s.inputs.keyEvent = none) : exec (.waitKey x) s = .next s.stall := by
  rw [exec_waitKey_eq, h, Option.elim_none]

theorem exec_waitKey_of_event {k : BitVec 4} (h : s.inputs.keyEvent = some k) :
    exec (.waitKey x) s = .next (s.setReg x (keyValue k)).advance := by
  rw [exec_waitKey_eq, h, Option.elim_some]

/-- Only the key skips read the snapshot, and wait-key is none of them. -/
theorem exec_waitKey_with_keys {t : State} (h : exec (.waitKey x) s = .next t) (keys : BitVec 16) :
    exec (.waitKey x) { s with keys := keys } = .next { t with keys := keys } := by
  obtain ⟨-, -, -, hkeys, -⟩ := eachInputIsReadOnlyByItsOperations _ s t h
  exact hkeys (fun _ => ⟨nofun, nofun⟩) keys

end WaitKey

/-- Settles O36: one of the two outcomes by the event, and the same one under any snapshot. -/
theorem waitKeyPollsTheKeyEvent : Obligations.WaitKeyPollsTheKeyEvent := by
  intro x s
  refine ⟨exec_waitKey_of_no_event, fun k hk => ?event, fun keys t u ht hu => ?snapshot⟩
  case event =>
    have hx : (s.setReg x (keyValue k)).advance.reg x = keyValue k := reg_setReg_same s x _
    exact ⟨_, exec_waitKey_of_event hk, by rw [hx, keyValue_toNat], rfl, rfl, frame_setReg_advance s x _⟩
  case snapshot =>
    cases hu.symm.trans (exec_waitKey_with_keys ht keys)
    exact ⟨rfl, rfl⟩

/-! ## Polling (R112, R160) -/

/-- The machine polls at a wait-key: it fetches one, no event is presented to it, and no scheduled move brings one. -/
structure PollsWithoutEvent (x : Reg) (s : State) : Prop where
  fetched : fetch s = .ok (encode (.waitKey x))
  noEvent : s.inputs.keyEvent = none
  noneScheduled : ∀ m ∈ s.schedule, m.inputs.keyEvent = none

/-- While something is scheduled, the next move is one of the scheduled ones. -/
theorem nextMove_mem_schedule {s : State} (h : 0 < s.schedule.length) : nextMove s ∈ s.schedule := by
  obtain ⟨m, ms, hs⟩ := List.exists_cons_of_length_pos h
  simp [nextMove, hs]

namespace PollsWithoutEvent
variable {x : Reg} {s : State}

/-- A step of polling marks itself stalled and lets the environment move. -/
theorem step_eq (hs : PollsWithoutEvent x s) : step s = .next (betweenSteps s.stall) := by
  rw [step_of_decoded hs.fetched (decode_encode _), exec_waitKey_of_no_event hs.noEvent, thenEnvironment]

/-- A scheduled move leaves the machine polling. -/
theorem after_scheduled_move (hs : PollsWithoutEvent x s) (hmove : 0 < s.schedule.length) :
    PollsWithoutEvent x (betweenSteps s.stall) where
  fetched := (fetch_congr rfl rfl rfl).trans hs.fetched
  noEvent := hs.noneScheduled _ (nextMove_mem_schedule hmove)
  noneScheduled := fun m hm => hs.noneScheduled m (List.mem_of_mem_tail hm)

end PollsWithoutEvent

/-- Settles O37, by induction on the number of steps: each one uses up a scheduled move and leaves the machine polling. -/
theorem waitKeyHoldsUntilAnEvent : Obligations.WaitKeyHoldsUntilAnEvent := by
  intro k x s hfetch hevent hlength hmoves
  induction k generalizing s with
  | zero => exact ⟨s, rfl, rfl, rfl, rfl, rfl, rfl, rfl, hevent, hfetch⟩
  | succ k ih =>
    have hs : PollsWithoutEvent x s := ⟨hfetch, hevent, hmoves⟩
    have hnext := hs.after_scheduled_move (Nat.zero_lt_of_lt hlength)
    have hrest : k ≤ (betweenSteps s.stall).schedule.length := by
      rw [betweenSteps_schedule, State.stall_schedule, List.length_tail]
      omega
    obtain ⟨t, hrun, hkept⟩ := ih _ hnext.fetched hnext.noEvent hrest hnext.noneScheduled
    exact ⟨t, (run_succ_of_next hs.step_eq).trans hrun, hkept⟩

end Sys2Proof.Machine
end

section
/-! PROOF. The interfaces: which instructions send an output, what the environment does between two steps, and what the program
loader places (50_interfaces.md). -/

namespace Sys2Proof.Machine

/-! ## The outputs of a step (R115, R118, R123) -/

/-- The outputs that an instruction completed from `s` can answer: one for each sender, and quiet for all the others. -/
inductive ExecOutput (s : State) : Instr → StepOutputs → Prop where
  | clear : ExecOutput s .clearDisplay ⟨.clear, false⟩
  | draw (x y : Reg) (n : Fin 16) (rows : List Byte) :
      ExecOutput s (.draw x y n) ⟨.draw (s.reg x) (s.reg y) rows, false⟩
  | stalled (x : Reg) (hevent : s.inputs.keyEvent = none) : ExecOutput s (.waitKey x) ⟨.none, true⟩
  | quiet {i : Instr} (hclear : i ≠ .clearDisplay) (hdraw : ∀ x y n, i ≠ .draw x y n)
      (hwait : ∀ x, i = .waitKey x → s.inputs.keyEvent ≠ none) : ExecOutput s i .quiet

/-- Everything a completed instruction can output. -/
theorem exec_output {i : Instr} {s t : State} (h : exec i s = .next t) : ExecOutput s i t.out := by
  cases i with
  | clearDisplay => cases h; exact .clear
  | draw x y n =>
    obtain ⟨-, rfl⟩ := exec_draw_next_iff.mp h
    exact .draw x y n _
  | waitKey x =>
    rcases exec_waitKey_cases x s with ⟨hk, e⟩ | ⟨k, hk, e⟩ <;> cases h.symm.trans e
    · exact .stalled x hk
    · exact .quiet nofun nofun fun _ _ => by simp [hk]
  | ret =>
    obtain ⟨-, rfl⟩ := exec_ret_next_iff.mp h
    exact .quiet nofun nofun nofun
  | call addr =>
    obtain ⟨-, rfl⟩ := exec_call_next_iff.mp h
    exact .quiet nofun nofun nofun
  | jump | skipEqImm | skipNeImm | skipEqReg | skipNeReg | loadImm | addImm | move | orReg | andReg | xorReg | addReg | subReg
  | shiftRight | subRegRev | shiftLeft | loadAddr | jumpOffset | randAnd | skipKeyPressed | skipKeyNotPressed
  | loadDelay => cases h; exact .quiet nofun nofun nofun

/-- Settles O45: each sender's output is its own, and a quiet one has neither a command nor the mark. -/
theorem outputsOnlyWhereR115Says : Obligations.OutputsOnlyWhereR115Says := by
  intro i s t h
  have hout := exec_output h
  generalize t.out = o at hout ⊢
  cases hout with
  | clear | draw => simp
  | stalled x hevent => simp [hevent]
  | quiet hclear hdraw hwait =>
    refine ⟨iff_of_false nofun hclear, iff_of_false nofun ?_, iff_of_false nofun ?_⟩
    · rintro ⟨x, y, n, hi⟩
      exact hdraw x y n hi
    · rintro ⟨hevent, x, hi⟩
      exact hwait x hi hevent

/-! ## The environment between steps (R125, R126) -/

theorem nextMove_of_scheduled {s : State} {m : EnvMove} {rest : List EnvMove} (h : s.schedule = m :: rest) :
    nextMove s = m := by
  simp only [nextMove, h]

theorem nextMove_of_unscheduled {s : State} (h : s.schedule = []) : nextMove s = Config.envMove s.tick := by
  simp only [nextMove, h]

/-- Settles O47: the instruction leaves the schedule and the tick, so the move after it is the one that was next before it. -/
theorem environmentActsBetweenStepsOnly : Obligations.EnvironmentActsBetweenStepsOnly := by
  intro s u h
  obtain ⟨w, i, t, hfetch, hdecode, hexec, rfl⟩ := step_next_inv h
  obtain ⟨⟨-, -, -, hcfg, -, hschedule, htick⟩, hmem⟩ := execLeavesSurroundingsAndMemory i s t hexec
  refine ⟨i, t, encode_of_decode hdecode ▸ hfetch, hexec, rfl, rfl, rfl, rfl, rfl, hmem, hcfg, rfl, fun m rest hs => ?scheduled,
    fun hs => ?free, congrArg (· + 1) htick⟩
  case scheduled =>
    have hmove : nextMove t = m := nextMove_of_scheduled (hschedule.trans hs)
    simp [hmove, hschedule, hs]
  case free =>
    have hmove : nextMove t = Config.envMove s.tick := htick ▸ nextMove_of_unscheduled (hschedule.trans hs)
    simp [hmove]

/-! ## The program loader (R117) -/

section Loader
variable {s t u : State} {a : Nat} {b : Byte} {bytes : List Byte}

theorem loadBytesAt_cons_of_ok (h : memWrite1 s a b = .ok t) :
    loadBytesAt s a (b :: bytes) = loadBytesAt t (a + 1) bytes := by
  simp only [loadBytesAt, h]

theorem loadBytesAt_cons_of_error {f : Fault} (h : memWrite1 s a b = .error f) :
    loadBytesAt s a (b :: bytes) = .error f := by
  simp only [loadBytesAt, h]

/-- The load of one more byte completes when its write and the rest of the load do. -/
theorem loadBytesAt_cons_ok_iff : loadBytesAt s a (b :: bytes) = .ok u ↔
    ∃ t, memWrite1 s a b = .ok t ∧ loadBytesAt t (a + 1) bytes = .ok u := by
  cases hw : memWrite1 s a b with
  | error f => simp [loadBytesAt_cons_of_error hw]
  | ok t => simp [loadBytesAt_cons_of_ok hw]

/-- The bytes are accepted exactly when they fit, or there are none. -/
theorem exists_loadBytesAt_ok_iff :
    (∃ t, loadBytesAt s a bytes = .ok t) ↔ bytes = [] ∨ a + bytes.length ≤ s.cfg.memorySize := by
  induction bytes generalizing s a with
  | nil => exact iff_of_true ⟨s, rfl⟩ (.inl rfl)
  | cons b bytes ih =>
    rcases Nat.lt_or_ge a s.cfg.memorySize with ha | ha
    · rw [loadBytesAt_cons_of_ok (memWrite1_ok.mpr ⟨ha, rfl⟩), ih, ← List.length_eq_zero_iff]
      simp only [List.length_cons, reduceCtorEq, false_or]
      omega
    · rw [loadBytesAt_cons_of_error (memWrite1_outside b ha)]
      refine iff_of_false nofun ?_
      simp only [List.length_cons, reduceCtorEq, false_or]
      omega

/-- Read after load: the byte loaded at that place if there is one, and otherwise the byte as before. -/
theorem byteAt_loadBytesAt (hm : s.mem.wf = true) (h : loadBytesAt s a bytes = .ok t) (q : Nat) :
    t.mem.byteAt q = if a ≤ q then bytes[q - a]?.getD (s.mem.byteAt q) else s.mem.byteAt q := by
  induction bytes generalizing s a with
  | nil => cases h; simp
  | cons b bytes ih =>
    obtain ⟨r, hwrite, hrest⟩ := loadBytesAt_cons_ok_iff.mp h
    obtain ⟨-, rfl⟩ := memWrite1_ok.mp hwrite
    rw [ih (wf_setByte hm a b) hrest, byteAt_setByte hm]
    rcases Nat.lt_trichotomy q a with hq | rfl | hq
    · rw [if_neg (by omega), if_neg hq.ne, if_neg (by omega)]
    · simp
    · obtain ⟨k, rfl⟩ := Nat.exists_eq_add_of_lt hq
      rw [if_pos (by omega), if_neg (by omega), if_pos (by omega), show a + k + 1 - (a + 1) = k by omega,
        show a + k + 1 - a = k + 1 by omega, List.getElem?_cons_succ]

end Loader

/-- Settles O51: a load that fits completes and reads back as `byteAt_loadBytesAt` says; one that does not is no completed
load, so it is an error. -/
theorem loaderPlacesTheProgram : Obligations.LoaderPlacesTheProgram := by
  refine fun bytes s hm => ⟨fun hfits => ?fits, fun hbytes hpast => ?refused⟩
  case fits =>
    obtain ⟨t, hload⟩ := exists_loadBytesAt_ok_iff.mpr (.inr hfits)
    have hread := byteAt_loadBytesAt hm hload
    refine ⟨t, hload, fun k hk => ?_, fun a ha => ?_, loadBytesAt_frame hload⟩
    · rw [hread, if_pos (Nat.le_add_right _ _), Nat.add_sub_cancel_left, List.getElem?_eq_getElem hk, Option.getD_some]
    · rw [hread]
      split
      · rw [List.getElem?_eq_none (by omega), Option.getD_none]
      · rfl
  case refused =>
    cases hload : loadProgram bytes s with
    | error f => exact ⟨f, rfl⟩
    | ok t =>
      rcases exists_loadBytesAt_ok_iff.mp ⟨t, hload⟩ with hnil | hfits
      · exact absurd hnil hbytes
      · omega

end Sys2Proof.Machine
end

section
/-! PROOF. Failures: when an instruction and a step fail, in what order, and that a failure repeats (60_exceptions.md). -/

namespace Sys2Proof.Machine

/-! ## An instruction's own failure (R133) -/

/-- Settles O10: each of the two answers of `exec_cases` excludes the other's condition. -/
theorem execCompletesUnlessR133 : Obligations.ExecCompletesUnlessR133 := by
  intro i s
  rcases exec_cases i s with ⟨hnone, hnext⟩ | ⟨info, hsome, hfault⟩
  · exact ⟨fun _ => hnext, fun info h => (nomatch hnone.symm.trans h)⟩
  · exact ⟨fun h => (nomatch hsome.symm.trans h), fun info' h => Option.some.inj (hsome.symm.trans h) ▸ hfault⟩

theorem exec_fault_iff {i : Instr} {s : State} {f : Fault} : exec i s = .fault f ↔
    ∃ info, failureOf s i = some info ∧ f = .addressOutOfBounds info := by
  obtain ⟨hcompletes, hfails⟩ := execCompletesUnlessR133 i s
  constructor
  · intro h
    cases hinfo : failureOf s i with
    | none =>
      obtain ⟨t, hnext⟩ := hcompletes hinfo
      cases hnext.symm.trans h
    | some info => exact ⟨info, rfl, Host.Outcome.fault.inj (h.symm.trans (hfails info hinfo))⟩
  · rintro ⟨info, hinfo, rfl⟩
    exact hfails info hinfo

/-! ## The step's failures in their order (R138) -/

/-- Settles O11: the three cases of `step_cases`, the last divided by the instruction's failing condition. -/
theorem everyStepOutcomeByPriority : Obligations.EveryStepOutcomeByPriority := by
  intro s
  rcases step_cases s with ⟨f, hfetch, hstep⟩ | ⟨w, v, hfetch, hdecode, hstep⟩ | ⟨w, i, hfetch, hdecode, hstep⟩
  · obtain ⟨hpc, rfl⟩ := fetch_error_iff.mp hfetch
    exact .inl ⟨hpc, hstep⟩
  · obtain ⟨hpc, hw⟩ := fetch_ok_iff_wordNumberAt.mp hfetch
    obtain ⟨rfl, hlisted⟩ := decode_invalidOpcode hdecode
    rw [← hw, BitVec.ofNat_toNat, BitVec.setWidth_eq]
    exact .inr (.inl ⟨hpc, hlisted, hstep⟩)
  · obtain ⟨hpc, hw⟩ := fetch_ok_iff_wordNumberAt.mp hfetch
    refine .inr (.inr ⟨hpc, i, encode_of_decode hdecode ▸ hw, ?_⟩)
    rcases exec_cases i s with ⟨hnone, t, hnext⟩ | ⟨info, hsome, hfault⟩
    · exact .inr ⟨hnone, t, hnext, by rw [hstep, hnext]; rfl⟩
    · exact .inl ⟨info, hsome, by rw [hstep, hfault]; rfl⟩

/-! ## A failure repeats (R141) -/

/-- Fetch reads `pc`, memory and its size, none of which the environment moves (R125). -/
theorem fetch_applyMove (m : EnvMove) (s : State) : fetch (applyMove m s) = fetch s := rfl

/-- R133's conditions read `I`, `sp` and the parameters, none of which the environment moves (R125). -/
theorem failureOf_applyMove (m : EnvMove) (s : State) (i : Instr) : failureOf (applyMove m s) i = failureOf s i := rfl

theorem thenEnvironment_fault_iff {o : Host.Outcome State Fault Refusal} {f : Fault} :
    thenEnvironment o = .fault f ↔ o = .fault f := by
  cases o with
  | next | refused => exact ⟨nofun, nofun⟩
  | fault => exact Iff.rfl

/-- Settles O12: the environment moves nothing that decides about a failure, be it fetch's, dispatch's or the instruction's. -/
theorem failureRepeatsWhateverTheEnvironmentDoes : Obligations.FailureRepeatsWhateverTheEnvironmentDoes := by
  intro s f m h
  rcases step_cases s with ⟨g, hfetch, hstep⟩ | ⟨w, v, -, -, hstep⟩ | ⟨w, i, hfetch, hdecode, hstep⟩
  · cases hstep.symm.trans h
    exact step_of_fetch_error ((fetch_applyMove m s).trans hfetch)
  · cases hstep.symm.trans h
    rw [step_invalidOpcode_iff] at h ⊢
    rwa [fetch_applyMove]
  · rw [hstep, thenEnvironment_fault_iff, exec_fault_iff] at h
    rwa [step_of_decoded ((fetch_applyMove m s).trans hfetch) hdecode, thenEnvironment_fault_iff, exec_fault_iff,
      failureOf_applyMove]

end Sys2Proof.Machine
end

section
/-! PROOF. The first step after reset with no program loaded (70_reset_and_hazards.md R153). -/

namespace Sys2Proof.Machine

/-- Settles O53: by R6 two bytes stand at the load address; both read 0, and R61 lists the word 0. -/
theorem firstStepOnEmptyMemoryFails : Obligations.FirstStepOnEmptyMemoryFails := by
  intro p keys inputs hp
  obtain ⟨-, -, hload, -⟩ := (params_wellFormed_iff p).mp hp
  have hpc : (State.resetWith p keys inputs).pc.toNat + 1 < p.memorySize := by
    rwa [resetWith_pc_toNat keys inputs hp]
  exact (invalidWordsFail _ 0).mpr ⟨hpc, rfl, by decide⟩

end Sys2Proof.Machine
end
